-- ==== Sys2Proof/Word.lean ====
section
/-! DEFINITION. The numeric domain and the command word (00_scope.md R11, 30_encoding.md R81). -/

namespace Sys2Proof

/-- The domain `NUM` of R11: exact real numbers. A number is held as a closed expression that names it, because State is plain
data; which real an expression names is `NUM.val` (Machine/Value.lean), and no operation rounds. The operations build
expressions (Machine/Arith.lean); comparison and `floor` decide on the named real, exactly. DESIGN CHOICE of representation
(assumption 1). -/
inductive NUM where
  /-- a rational number -/
  | rat (q : ℚ)
  /-- a real number supplied from outside, which may be any: its integer part and binary digits are free (Config.lean) -/
  | given (n : Nat)
  /-- `PI` of R13 -/
  | pi
  /-- the natural logarithm of 10, through which `pow(10, e)` is `exp` -/
  | ln10
  /-- the sum -/
  | sum (a b : NUM)
  /-- the product -/
  | prod (a b : NUM)
  /-- the negative -/
  | opp (a : NUM)
  /-- the reciprocal of the greater of `a` and `1/(k+1)`; `k` is chosen so that `a` is the greater (`NUM.inv`) -/
  | recip (k : Nat) (a : NUM)
  /-- the square root, 0 for a negative `a` -/
  | root (a : NUM)
  /-- the sine of an angle in radians -/
  | sine (a : NUM)
  /-- the exponential -/
  | expo (a : NUM)
deriving DecidableEq, Repr, Inhabited

/-- A command word, R81: 32 bits, bit 31 the most significant. -/
abbrev CmdWord := BitVec 32

/-- Bits `lo + width − 1 .. lo` of a command word as a plain unsigned integer (R81: "All fields are unsigned"). -/
def cmdField (lo width : Nat) (w : CmdWord) : Nat := w.toNat / 2 ^ lo % 2 ^ width

end Sys2Proof
end

