-- ==== Sys2Proof/Syntax.lean ====
section
/-! DEFINITION. The operations of the block: one constructor per row of spec/opcode_table.json (30_encoding.md R83, R94).
Only what the command word carries is here (`INST`, `SEL`); the operand slots of R87 travel in the packet. -/

namespace Sys2Proof

/-- The filter types of R86, in the order of their codes 0 to 3. -/
inductive FilterType where
  | lowPass12 | lowPass6 | highPass12 | highPass6
deriving DecidableEq, Repr, Inhabited

/-- The 6 dB types, "a first-order one-pole design" (43_biquad.md R136 (b)). -/
def FilterType.isFirstOrder : FilterType → Bool
  | .lowPass12 | .highPass12 => false
  | .lowPass6 | .highPass6 => true

/-- The parameter registers `RV.P[0..12]` of 10_state.md R28, in the order of their ids (30_encoding.md R85). -/
inductive ParamId where
  | decay | sizeEarly | sizeLate | diffuse | lowCutPre | highCutPre | modulate | mix | earlyStages | interpolation
  | freeze | lowCutPost | highCutPost
deriving DecidableEq, Repr, Inhabited

/-- The number of a parameter register (R28, R85). -/
def ParamId.idx : ParamId → Fin 13
  | .decay => 0
  | .sizeEarly => 1
  | .sizeLate => 2
  | .diffuse => 3
  | .lowCutPre => 4
  | .highCutPre => 5
  | .modulate => 6
  | .mix => 7
  | .earlyStages => 8
  | .interpolation => 9
  | .freeze => 10
  | .lowCutPost => 11
  | .highCutPost => 12

/-- One operation, with the instance number `INST` where its row leaves that field free (R84) and the filter type where
`SEL` carries one (R86). -/
inductive Instr where
  /-- RB.WRITE, R103 -/
  | rbWrite (r : Nat)
  /-- RB.READ, R104 -/
  | rbRead (r : Nat)
  /-- MD.SETP, R111 -/
  | mdSetp (m : Nat)
  /-- MD.PROC, R112 -/
  | mdProc (m : Nat)
  /-- MD.GETO, R113 -/
  | mdGeto (m : Nat)
  /-- AP.SETP, R121 -/
  | apSetp (a : Nat)
  /-- AP.SETFB, R122 -/
  | apSetfb (a : Nat)
  /-- AP.PROC, R123 -/
  | apProc (a : Nat)
  /-- AP.GETO, R124 -/
  | apGeto (a : Nat)
  /-- BQ.SETTYPE, R131 -/
  | bqSettype (q : Nat) (t : FilterType)
  /-- BQ.SETFREQ, R132 -/
  | bqSetfreq (q : Nat)
  /-- BQ.SETFS, R133 -/
  | bqSetfs (q : Nat)
  /-- BQ.UPDATE, R134 -/
  | bqUpdate (q : Nat)
  /-- BQ.PROC, R135 -/
  | bqProc (q : Nat)
  /-- RV.SETPARAM Decay, R155 -/
  | rvSetDecay
  /-- RV.SETPARAM SizeEarly, R156 -/
  | rvSetSizeEarly
  /-- RV.SETPARAM SizeLate, R157 -/
  | rvSetSizeLate
  /-- RV.SETPARAM Diffuse, R158 -/
  | rvSetDiffuse
  /-- RV.SETPARAM LowCutPre, R159 -/
  | rvSetLowCutPre
  /-- RV.SETPARAM HighCutPre, R160 -/
  | rvSetHighCutPre
  /-- RV.SETPARAM Modulate, R161 -/
  | rvSetModulate
  /-- RV.SETPARAM Mix, R162 -/
  | rvSetMix
  /-- RV.SETPARAM EarlyStages, R163 -/
  | rvSetEarlyStages
  /-- RV.SETPARAM Interpolation, R164 -/
  | rvSetInterpolation
  /-- RV.SETPARAM Freeze, R165 -/
  | rvSetFreeze
  /-- RV.SETPARAM LowCutPost, R166 -/
  | rvSetLowCutPost
  /-- RV.SETPARAM HighCutPost, R167 -/
  | rvSetHighCutPost
  /-- RV.UPDATEALL, R168 -/
  | rvUpdateall
  /-- RV.PROC, R171 -/
  | rvProc
  /-- GP.SETSPEED, R191 -/
  | gpSetspeed
  /-- GP.SEED, R192 -/
  | gpSeed
  /-- GP.PROC, R194 -/
  | gpProc
deriving DecidableEq, Repr, Inhabited

end Sys2Proof
end

