-- ==== Sys2Proof/WellFormed.lean ====
section
/-! DEFINITION. Which instructions a command word can carry: the `INST` ranges of 30_encoding.md R84. -/

namespace Sys2Proof

/-- The number of ring buffers, R84 (INST 0 to 24). -/
def numRb : Nat := 25

/-- The number of modulated delays, R84 (INST 0 to 23). -/
def numMd : Nat := 24

/-- The number of modulated allpasses, R84 (INST 0 to 19). -/
def numAp : Nat := 20

/-- The number of biquad filters, R84 (INST 0 to 3). -/
def numBq : Nat := 4

/-- `INST` lies in the range R84 gives the unit; the engine and the pitch shifter have the one instance 0, which their
constructors do not carry. `SEL` is legal by its type (R85, R86). -/
def Instr.wf : Instr → Bool
  | .rbWrite r => decide (r < numRb)
  | .rbRead r => decide (r < numRb)
  | .mdSetp m => decide (m < numMd)
  | .mdProc m => decide (m < numMd)
  | .mdGeto m => decide (m < numMd)
  | .apSetp a => decide (a < numAp)
  | .apSetfb a => decide (a < numAp)
  | .apProc a => decide (a < numAp)
  | .apGeto a => decide (a < numAp)
  | .bqSettype q _ => decide (q < numBq)
  | .bqSetfreq q => decide (q < numBq)
  | .bqSetfs q => decide (q < numBq)
  | .bqUpdate q => decide (q < numBq)
  | .bqProc q => decide (q < numBq)
  | .rvSetDecay => true
  | .rvSetSizeEarly => true
  | .rvSetSizeLate => true
  | .rvSetDiffuse => true
  | .rvSetLowCutPre => true
  | .rvSetHighCutPre => true
  | .rvSetModulate => true
  | .rvSetMix => true
  | .rvSetEarlyStages => true
  | .rvSetInterpolation => true
  | .rvSetFreeze => true
  | .rvSetLowCutPost => true
  | .rvSetHighCutPost => true
  | .rvUpdateall => true
  | .rvProc => true
  | .gpSetspeed => true
  | .gpSeed => true
  | .gpProc => true

end Sys2Proof
end

