-- ==== Sys2Proof/Decode.lean ====
section
/-! DEFINITION. The decoder, total on every command word and refusing by name, and the encoder (30_encoding.md R81 to
R90, R94). -/

namespace Sys2Proof

/-- `cmd[31:28]`, R81. -/
def fieldUnit (w : CmdWord) : Nat := cmdField 28 4 w

/-- `cmd[27:24]`, R81. -/
def fieldOp (w : CmdWord) : Nat := cmdField 24 4 w

/-- `cmd[23:16]`, R81. -/
def fieldInst (w : CmdWord) : Nat := cmdField 16 8 w

/-- `cmd[15:8]`, R81. -/
def fieldSel (w : CmdWord) : Nat := cmdField 8 8 w

/-- `cmd[7:0]`, R81: must be 0. -/
def fieldZero (w : CmdWord) : Nat := cmdField 0 8 w

/-- Why a command word is illegal, R89: the first of its conditions that fails, in the order ZERO, (UNIT, OP), SEL, INST. -/
inductive Illegal where
  /-- R89 (d): the ZERO byte is not 0. -/
  | zeroByte
  /-- R89 (a): (UNIT, OP) is no row of R83. -/
  | noSuchOperation
  /-- R89 (c): SEL is not one the operation has. -/
  | badSelector
  /-- R89 (b): INST is outside the unit's range of R84. -/
  | badInstance
deriving DecidableEq, Repr

/-- The filter type of a `SEL` code, R86; codes 4 to 255 are illegal. -/
def FilterType.ofCode : Nat → Option FilterType
  | 0 => some .lowPass12
  | 1 => some .lowPass6
  | 2 => some .highPass12
  | 3 => some .highPass6
  | _ => none

/-- The `SEL` code of a filter type, R86. -/
def FilterType.code : FilterType → Nat
  | .lowPass12 => 0
  | .lowPass6 => 1
  | .highPass12 => 2
  | .highPass6 => 3

/-- The parameter write of a `SEL` code, R85; codes 13 to 255 are illegal. -/
def setparamOfCode : Nat → Option Instr
  | 0 => some .rvSetDecay
  | 1 => some .rvSetSizeEarly
  | 2 => some .rvSetSizeLate
  | 3 => some .rvSetDiffuse
  | 4 => some .rvSetLowCutPre
  | 5 => some .rvSetHighCutPre
  | 6 => some .rvSetModulate
  | 7 => some .rvSetMix
  | 8 => some .rvSetEarlyStages
  | 9 => some .rvSetInterpolation
  | 10 => some .rvSetFreeze
  | 11 => some .rvSetLowCutPost
  | 12 => some .rvSetHighCutPost
  | _ => none

/-- An operation whose `INST` must be below `n`, R89 (b). -/
def inRange (n inst : Nat) (i : Instr) : Except Illegal Instr :=
  if inst < n then .ok i else .error .badInstance

/-- An operation whose `SEL` must be 0, R89 (c), and whose `INST` must be below `n`. -/
def plain (n inst sel : Nat) (i : Instr) : Except Illegal Instr :=
  if sel = 0 then inRange n inst i else .error .badSelector

/-- The operation of the fields (UNIT, OP, INST, SEL), R83 to R86, R89. -/
def decodeFields (unit op inst sel : Nat) : Except Illegal Instr :=
  match unit, op with
  | 1, 0 => plain numRb inst sel (.rbWrite inst)
  | 1, 1 => plain numRb inst sel (.rbRead inst)
  | 2, 0 => plain numMd inst sel (.mdSetp inst)
  | 2, 1 => plain numMd inst sel (.mdProc inst)
  | 2, 2 => plain numMd inst sel (.mdGeto inst)
  | 3, 0 => plain numAp inst sel (.apSetp inst)
  | 3, 1 => plain numAp inst sel (.apSetfb inst)
  | 3, 2 => plain numAp inst sel (.apProc inst)
  | 3, 3 => plain numAp inst sel (.apGeto inst)
  | 4, 0 =>
    match FilterType.ofCode sel with
    | some t => inRange numBq inst (.bqSettype inst t)
    | none => .error .badSelector
  | 4, 1 => plain numBq inst sel (.bqSetfreq inst)
  | 4, 2 => plain numBq inst sel (.bqSetfs inst)
  | 4, 3 => plain numBq inst sel (.bqUpdate inst)
  | 4, 4 => plain numBq inst sel (.bqProc inst)
  | 5, 0 =>
    match setparamOfCode sel with
    | some i => inRange 1 inst i
    | none => .error .badSelector
  | 5, 1 => plain 1 inst sel .rvUpdateall
  | 5, 2 => plain 1 inst sel .rvProc
  | 6, 0 => plain 1 inst sel .gpSetspeed
  | 6, 1 => plain 1 inst sel .gpSeed
  | 6, 2 => plain 1 inst sel .gpProc
  | _, _ => .error .noSuchOperation

/-- The decoder: one 32-bit word, no context (R90). -/
def decode (w : CmdWord) : Except Illegal Instr :=
  if fieldZero w = 0 then decodeFields (fieldUnit w) (fieldOp w) (fieldInst w) (fieldSel w) else .error .zeroByte

/-- `zext_4(UNIT) ++ zext_4(OP) ++ zext_8(INST) ++ zext_8(SEL) ++ 00000000`, R81. -/
def mkCmd (unit op inst sel : Nat) : CmdWord :=
  BitVec.ofNat 4 unit ++ BitVec.ofNat 4 op ++ BitVec.ofNat 8 inst ++ BitVec.ofNat 8 sel ++ 0#8

/-- The command word of an operation, R94. -/
def encode : Instr → CmdWord
  | .rbWrite r => mkCmd 1 0 r 0
  | .rbRead r => mkCmd 1 1 r 0
  | .mdSetp m => mkCmd 2 0 m 0
  | .mdProc m => mkCmd 2 1 m 0
  | .mdGeto m => mkCmd 2 2 m 0
  | .apSetp a => mkCmd 3 0 a 0
  | .apSetfb a => mkCmd 3 1 a 0
  | .apProc a => mkCmd 3 2 a 0
  | .apGeto a => mkCmd 3 3 a 0
  | .bqSettype q t => mkCmd 4 0 q t.code
  | .bqSetfreq q => mkCmd 4 1 q 0
  | .bqSetfs q => mkCmd 4 2 q 0
  | .bqUpdate q => mkCmd 4 3 q 0
  | .bqProc q => mkCmd 4 4 q 0
  | .rvSetDecay => mkCmd 5 0 0 0
  | .rvSetSizeEarly => mkCmd 5 0 0 1
  | .rvSetSizeLate => mkCmd 5 0 0 2
  | .rvSetDiffuse => mkCmd 5 0 0 3
  | .rvSetLowCutPre => mkCmd 5 0 0 4
  | .rvSetHighCutPre => mkCmd 5 0 0 5
  | .rvSetModulate => mkCmd 5 0 0 6
  | .rvSetMix => mkCmd 5 0 0 7
  | .rvSetEarlyStages => mkCmd 5 0 0 8
  | .rvSetInterpolation => mkCmd 5 0 0 9
  | .rvSetFreeze => mkCmd 5 0 0 10
  | .rvSetLowCutPost => mkCmd 5 0 0 11
  | .rvSetHighCutPost => mkCmd 5 0 0 12
  | .rvUpdateall => mkCmd 5 1 0 0
  | .rvProc => mkCmd 5 2 0 0
  | .gpSetspeed => mkCmd 6 0 0 0
  | .gpSeed => mkCmd 6 1 0 0
  | .gpProc => mkCmd 6 2 0 0

/-- The instruction the decoder reads from an opcode-table row's bits: the word whose low `nbits` bits are those of `w`
and whose other bits are 0. Every row of the table is one 32-bit word (R90). -/
def decodeTableWord (nbits w : Nat) : Option Instr :=
  if w % 2 ^ nbits < 2 ^ 32 then
    match decode (BitVec.ofNat 32 (w % 2 ^ nbits)) with
    | .ok i => some i
    | .error _ => none
  else none

end Sys2Proof
end

