-- ==== Sys2Proof/Config.lean ====
section
/-! DEFINITION. What a construction of the block fixes (00_scope.md R9) and the values the spec leaves free. -/

namespace Sys2Proof

/-- The five difference-equation coefficients of a biquad, `a0` normalised to 1 (10_state.md R25, 43_biquad.md R135). -/
structure Coeffs where
  b0 : NUM
  b1 : NUM
  b2 : NUM
  a1 : NUM
  a2 : NUM
deriving DecidableEq, Repr, Inhabited

/-! ## Free values

Constants with no body: nothing can be proved of a value of theirs, so a claim about a result they enter holds for every
value it could have. -/

/-- The integer part of a real number supplied from outside the machine (an operand, a construction parameter), one for each
name (assumption 1). -/
opaque Config.freeInt : Nat → Int

/-- The binary digits of the same number after its integer part: every real number has such a form. -/
opaque Config.freeBit : Nat → Nat → Bool

/-- The root of a negative number, which no rule takes (46_arithmetic_and_control.md R272, assumption 16). It and the next two
are functions of a number's value: their arguments are the sequences `⌊2^k·x⌋` of the numbers `x`. -/
opaque Config.freeSqrt : (Nat → Int) → NUM

/-- A coefficient design `BQ_DESIGN` of which nothing is known, one for each number (43_biquad.md R136, assumption 8). -/
opaque Config.freeDesign : Nat → FilterType → (Nat → Int) → (Nat → Int) → Coeffs

/-- A storage quantiser `Qs` of which nothing is known, one for each number (00_scope.md R9, assumption 11). -/
opaque Config.freeQuant : Nat → (Nat → Int) → NUM

/-- The draws of a generator `RNG` of which nothing is known: generator, seed, how many draws came before (45_granular.md
R193, assumption 9). -/
opaque Config.freeDraw : Nat → Nat → Nat → NUM

/-- What a response slot holds that no operation produced: index of the packet, slot, element (30_encoding.md R93,
93_implementation_defined.md U3, assumption 4). -/
opaque Config.freeSlot : Nat → Nat → Nat → NUM

/-! ## Construction parameters -/

/-- `AP_FORM` of R9: which term the allpass output subtracts (42_modulated_allpass.md R123). -/
inductive ApForm where
  /-- `out = d − g·u`, the spec's resolution of 90_conflicts.md C4 -/
  | schroeder
  /-- `out = d − g·x`, the literal reading of the source's equation -/
  | literal
deriving DecidableEq, Repr, Inhabited

/-- `BQ_DESIGN` of R9. -/
inductive Design where
  /-- the default of 43_biquad.md R137 to R139 -/
  | default
  /-- the stub PASS of 95_test_vectors.md P4, which returns (1, 0, 0, 0, 0) for every argument -/
  | pass
  /-- any other design, known only by R136 (b) and (c) -/
  | free (n : Nat)
deriving DecidableEq, Repr, Inhabited

/-- `RNG` of R9. -/
inductive RngSel where
  /-- a generator of which only the range of its draws is known -/
  | free (n : Nat)
  /-- the explicit draw list of a test vector, whatever the seed; 0 for every draw after its end -/
  | listed (draws : List NUM)
deriving DecidableEq, Repr, Inhabited

/-- `Qs` of R9. -/
inductive Quantiser where
  /-- the identity, decision D3 -/
  | identity
  /-- any other quantiser -/
  | free (n : Nat)
deriving DecidableEq, Repr, Inhabited

/-- The construction parameters of R9: fixed at construction, changed by nothing. -/
structure Params where
  /-- `B`, block size in samples -/
  blockSize : Nat
  /-- `FS`, sample rate in Hz -/
  sampleRate : NUM
  /-- `RB_CAP[r]` -/
  rbCap : Vector Nat 25
  /-- `NG`, grains in the pool -/
  numGrains : Nat
  /-- `G`, grain base length in samples -/
  grainLen : NUM
  /-- `PRE_LEN[j]` -/
  preLen : Vector NUM 12
  /-- `PRE_RATE[j]` -/
  preRate : Vector NUM 12
  /-- `PRE_FB[j]` -/
  preFb : Vector NUM 12
  /-- `TANK_AP_LEN[i][k]` at place `2i + k` -/
  tankApLen : Vector NUM 8
  /-- `TANK_AP_RATE[i][k]` at place `2i + k` -/
  tankApRate : Vector NUM 8
  /-- `TANK_DLY_LEN[i]` -/
  tankDlyLen : Vector NUM 4
  /-- `TANK_DLY_RATE[i]` -/
  tankDlyRate : Vector NUM 4
  /-- `BQ_TYPE_INIT[q]` -/
  bqTypeInit : Vector FilterType 4
  /-- `BQ_DESIGN` -/
  design : Design
  /-- `AP_FORM` -/
  apForm : ApForm
  /-- `RNG` -/
  rng : RngSel
  /-- `Qs` -/
  quant : Quantiser
deriving DecidableEq, Repr

/-- `JIT` of R9: maximum reseed jitter in samples. -/
def jitterMax : NUM := .rat 300

/-- `MOD_BASE` of R9: LFO depth baseline in samples. -/
def modBase : NUM := .rat 25

/-- `MOD_FIRST` of R9: LFO depth baseline of tank delay 0. -/
def modFirst : NUM := .rat 200

/-- The column "test default" of R9; the tank diffuser lengths are those of 95_test_vectors.md P4, to which R9 refers.
DESIGN CHOICE, unsafe: "it is not a property of the hardware" (assumption 2). -/
def Params.testDefault : Params where
  blockSize := 4
  sampleRate := .rat 48000
  rbCap := Vector.replicate 25 32
  numGrains := 2
  grainLen := .rat 4
  preLen := (#v[2, 3, 2, 3, 2, 3, 2, 3, 2, 3, 2, 3]).map .rat
  preRate := Vector.replicate 12 (.rat 0)
  preFb := Vector.replicate 12 (.rat (1 / 2))
  tankApLen := (#v[2, 3, 3, 2, 2, 2, 3, 3]).map .rat
  tankApRate := Vector.replicate 8 (.rat 0)
  tankDlyLen := (#v[4, 5, 6, 7]).map .rat
  tankDlyRate := Vector.replicate 4 (.rat 0)
  bqTypeInit := #v[.lowPass12, .highPass12, .lowPass12, .highPass12]
  design := .default
  apForm := .schroeder
  rng := .free 0
  quant := .identity

end Sys2Proof
end

