-- ==== Sys2Proof/Machine/Approx.lean ====
section
/-! DEFINITION. Rational approximations of the reals that NUM names: for every precision a rational and a bound of its error
(Laws/Approx.lean proves the bound and that it goes to 0). They serve the exact comparison and `floor` of Machine/Arith.lean
only; no result of an operation is an approximation. -/

namespace Sys2Proof.NUM

/-- `u 0 + … + u (n − 1)`. -/
def partialSum (u : Nat → ℚ) : Nat → ℚ
  | 0 => 0
  | n + 1 => partialSum u n + u n

/-- The sum of a series whose terms shrink at least by the factor `r` from the `n`-th on, and the bound of the rest. -/
def series (u : Nat → ℚ) (r : ℚ) (n : Nat) : ℚ × ℚ := (partialSum u n, |u n| / (1 - r))

/-- The terms of the exponential series. -/
def expTerm (x : ℚ) (k : Nat) : ℚ := x ^ k / k.factorial

/-- The terms of the sine series. -/
def sinTerm (x : ℚ) (k : Nat) : ℚ := (-1) ^ k * x ^ (2 * k + 1) / (2 * k + 1).factorial

/-- The terms of the series of the arc tangent. -/
def atanTerm (x : ℚ) (k : Nat) : ℚ := (-1) ^ k * x ^ (2 * k + 1) / (2 * k + 1 : Nat)

/-- The terms of the series of `log((1 + x)/(1 − x))`. -/
def logTerm (x : ℚ) (k : Nat) : ℚ := 2 * x ^ (2 * k + 1) / (2 * k + 1 : Nat)

/-- The terms of a given number after its integer part. -/
def bitTerm (i k : Nat) : ℚ := if Config.freeBit i k then 1 / 2 ^ (k + 1) else 0

/-- How many terms at `x` for precision `n`: from twice the size of `x` on, the terms halve. -/
def termCount (x : ℚ) (n : Nat) : Nat := n + 2 * ⌈|x|⌉.toNat

/-- The exponential of a rational. -/
def expAt (x : ℚ) (n : Nat) : ℚ × ℚ := series (expTerm x) (1 / 2) (termCount x n)

/-- The sine of a rational. -/
def sinAt (x : ℚ) (n : Nat) : ℚ × ℚ := series (sinTerm x) (1 / 2) (termCount x n)

/-- `PI = 16·arctan(1/5) − 4·arctan(1/239)`. -/
def piAt (n : Nat) : ℚ × ℚ :=
  let x := series (atanTerm (1 / 5)) (1 / 25) n
  let y := series (atanTerm (1 / 239)) (1 / 57121) n
  (16 * x.1 - 4 * y.1, 16 * x.2 + 4 * y.2)

/-- `log 10 = log((1 + 9/11)/(1 − 9/11))`. -/
def ln10At (n : Nat) : ℚ × ℚ := series (logTerm (9 / 11)) (81 / 121) (2 * n)

/-- The integer square root, from bit `k − 1` down. -/
def isqrtBits : Nat → Nat → Nat → Nat
  | 0, _, acc => acc
  | k + 1, m, acc => isqrtBits k m (if (acc + 2 ^ k) * (acc + 2 ^ k) ≤ m then acc + 2 ^ k else acc)

/-- The greatest `x` with `x² ≤ m`. -/
def isqrt (m : Nat) : Nat := isqrtBits (m.log2 / 2 + 1) m 0

/-- The root of a rational rounded down to a multiple of `1/2^n`. -/
def rootAt (x : ℚ) (n : Nat) : ℚ := (isqrt ⌊x * 4 ^ n⌋.toNat : ℚ) / 2 ^ n

/-- A rational near the named real and a bound of how far it is. -/
def approx : NUM → Nat → ℚ × ℚ
  | .rat q, _ => (q, 0)
  | .given i, n => (Config.freeInt i + partialSum (bitTerm i) n, 1 / 2 ^ n)
  | .pi, n => piAt n
  | .ln10, n => ln10At n
  | .sum a b, n =>
    let x := a.approx n
    let y := b.approx n
    (x.1 + y.1, x.2 + y.2)
  | .prod a b, n =>
    let x := a.approx n
    let y := b.approx n
    (x.1 * y.1, |x.1| * y.2 + |y.1| * x.2 + x.2 * y.2)
  | .opp a, n =>
    let x := a.approx n
    (-x.1, x.2)
  | .recip k a, n =>
    let x := a.approx n
    ((max (1 / (k + 1)) x.1)⁻¹, x.2 * (k + 1) ^ 2)
  | .root a, n =>
    let x := a.approx n
    (rootAt x.1 n, rootAt x.2 n + 2 / 2 ^ n)
  | .sine a, n =>
    let x := a.approx n
    let y := sinAt x.1 n
    (y.1, y.2 + x.2)
  | .expo a, n =>
    let x := a.approx n
    let y := expAt x.1 n
    let z := expAt x.2 n
    (y.1, y.2 + (y.1 + y.2) * x.2 * (z.1 + z.2))

end Sys2Proof.NUM
end

