-- ==== Sys2Proof/Machine/Arith.lean ====
section
/-! DEFINITION. The arithmetic of the rules (00_scope.md R11, R13; 46_arithmetic_and_control.md R270 to R272) on NUM, exact:
nothing is rounded. An operation on rationals with a rational result gives that rational, any other the expression of the
result; `sign` and `floor` find the sign and the integer part of the named real itself, by approximating it until they are
settled. Laws/Arith.lean says for each what real number results. -/

namespace Sys2Proof.NUM

/-! ## Search without a bound -/

/-- The first answer of `f` from place `n` on; none where there is none. -/
def searchFrom {α : Type} (f : Nat → Option α) (n : Nat) : Option α :=
  match f n with
  | some a => some a
  | none => searchFrom f (n + 1)
partial_fixpoint

/-- The same with the first `fuel` places by structural recursion. -/
def searchFuel {α : Type} (f : Nat → Option α) : (fuel n : Nat) → Option α
  | 0, n => searchFrom f n
  | fuel + 1, n =>
    match f n with
    | some a => some a
    | none => searchFuel f fuel (n + 1)

/-- The first answer of `f`; none where there is none. -/
def search {α : Type} (f : Nat → Option α) : Option α := searchFuel f 64 0

/-! ## Ring operations -/

/-- A natural number. -/
def ofNat (n : Nat) : NUM := .rat n

/-- An integer. -/
def ofInt (z : Int) : NUM := .rat z

/-- `a + b`. -/
def add (a b : NUM) : NUM :=
  match a, b with
  | .rat p, .rat q => .rat (p + q)
  | _, _ => if a = .rat 0 then b else if b = .rat 0 then a else .sum a b

/-- `−a`. -/
def neg : NUM → NUM
  | .rat q => .rat (-q)
  | a => .opp a

/-- `a − b`. -/
def sub (a b : NUM) : NUM := if a = b then .rat 0 else a.add b.neg

/-- `a · b`. -/
def mul (a b : NUM) : NUM :=
  match a, b with
  | .rat p, .rat q => .rat (p * q)
  | _, _ =>
    if a = .rat 0 ∨ b = .rat 0 then .rat 0 else if a = .rat 1 then b else if b = .rat 1 then a else .prod a b

/-! ## Order -/

/-- The sign of a real that is no rational number of the machine: the approximations are followed until they are away from 0;
a number whose approximations never are is 0. -/
def searchSign (a : NUM) : Ordering :=
  (search fun n =>
    let x := a.approx n
    if x.2 < x.1 then some .gt else if x.1 < -x.2 then some .lt else none).getD .eq

/-- How a number compares with 0. -/
def sign : NUM → Ordering
  | .rat q => if q < 0 then .lt else if q = 0 then .eq else .gt
  | a => a.searchSign

/-- `a = 0`. -/
def isZero (a : NUM) : Bool := a.sign == .eq

/-- `a < b`. -/
def lt (a b : NUM) : Bool := (b.sub a).sign == .gt

/-- `a ≤ b`. -/
def le (a b : NUM) : Bool := !b.lt a

/-- `a = b`. -/
def same (a b : NUM) : Bool := (a.sub b).isZero

/-- `max(a, b)`. -/
def greater (a b : NUM) : NUM := if a.lt b then b else a

/-- `|a|`. -/
def abs (a : NUM) : NUM := if a.lt (.rat 0) then a.neg else a

/-- The integer part of a real: an integer at most 1 above it, once the approximations leave only two, and a comparison. -/
def searchFloor (a : NUM) : Int :=
  let k := (search fun n =>
    let x := a.approx n
    if 2 * x.2 < 1 then some ⌊x.1 + x.2⌋ else none).getD 0
  if (ofInt k).le a then k else k - 1

/-- `floor(a)`, R13. -/
def floor : NUM → Int
  | .rat q => ⌊q⌋
  | a => a.searchFloor

/-- `ceil(a)`, R13. -/
def ceil (a : NUM) : Int := -a.neg.floor

/-- The sequence `⌊2^k·a⌋`, which the value of `a` and nothing else determines. -/
def digits (a : NUM) (k : Nat) : Int := ((NUM.rat (2 ^ k)).mul a).floor

/-! ## Division -/

/-- The reciprocal of a real that is no rational number of the machine: once the approximations keep a distance from 0, that
distance bounds it. The reciprocal of 0 is 0 (assumption 16). -/
def searchInv (a : NUM) : NUM :=
  (search fun n =>
    let x := a.approx n
    let k := ⌈1 / (|x.1| - x.2)⌉.toNat
    if x.2 < x.1 then some (.recip k a) else if x.1 < -x.2 then some (.opp (.recip k a.neg)) else none).getD (.rat 0)

/-- `1/a`. -/
def inv : NUM → NUM
  | .rat q => .rat q⁻¹
  | a => a.searchInv

/-- `a / b`. -/
def div (a b : NUM) : NUM := a.mul b.inv

/-! ## The real functions of R13 -/

/-- `sqrt(a)`. No rule takes the root of a negative number (R272); there the value is free. -/
def sqrt (a : NUM) : NUM :=
  if a.lt (.rat 0) then Config.freeSqrt a.digits
  else
    match a with
    | .rat q =>
      let m := q.num.toNat * q.den
      if isqrt m * isqrt m = m then .rat (isqrt m / q.den) else .root a
    | _ => .root a

/-- The phases in [0,1) whose sine is rational, with the sine. -/
def rationalSines : List (ℚ × ℚ) :=
  [(0, 0), (1 / 12, 1 / 2), (1 / 4, 1), (5 / 12, 1 / 2), (1 / 2, 0), (7 / 12, -1 / 2), (3 / 4, -1), (11 / 12, -1 / 2)]

/-- `2·PI·a`. -/
def turns (a : NUM) : NUM := a.mul ((NUM.rat 2).mul .pi)

/-- `sin(2·PI·t)` of a phase `t` in cycles. -/
def sinTurns (t : NUM) : NUM :=
  match t with
  | .rat q =>
    match rationalSines.find? fun c => decide (c.1 = q - ⌊q⌋) with
    | some c => .rat c.2
    | none => .sine t.turns
  | _ => .sine t.turns

/-- `cos(2·PI·t)`. -/
def cosTurns (t : NUM) : NUM := (t.add (.rat (1 / 4))).sinTurns

/-- `exp(−2·PI·t)`, R139. -/
def expNegTurns (t : NUM) : NUM := if t = .rat 0 then .rat 1 else .expo t.turns.neg

/-- `pow(10, e)`. -/
def pow10 (e : NUM) : NUM :=
  match e with
  | .rat q => if q.den = 1 then .rat (10 ^ q.num) else .expo (e.mul .ln10)
  | _ => .expo (e.mul .ln10)

end Sys2Proof.NUM

namespace Sys2Proof.Machine

/-- `frac(p) = p − floor(p)`, R13. -/
def frac (p : NUM) : NUM := p.sub (.ofInt p.floor)

/-- `round(p) = floor(p + 1/2)`, halves up, R13, R271. -/
def roundHalfUp (p : NUM) : Int := (p.add (.rat (1 / 2))).floor

/-- `clip(v, lo, hi)`, R13. -/
def clip (v lo hi : NUM) : NUM := if v.lt lo then lo else if hi.lt v then hi else v

/-- Slot of a time index: the Euclidean remainder `a mod n`, 20_memory.md R61, R270. -/
def slotOf (n : Nat) (a : Int) : Nat := (a % (n : Int)).toNat

end Sys2Proof.Machine
end

