-- ==== Sys2Proof/Machine/State.lean ====
section
/-! DEFINITION. The state of the block (10_state.md), the contract-violation records (60_exceptions.md R214), the host's
side of the interface (30_encoding.md R80), and the state after reset (10_state.md R40). All of it is plain data. -/

namespace Sys2Proof.Machine

/-- The sample storage of one ring buffer, 20_memory.md R60: the slots that do not hold 0, slots strictly rising. A slot
that is not listed holds 0, its reset value (R61, 10_state.md R40). -/
abbrev Memory := List (Nat × NUM)

/-- The canonical form of a storage: slots strictly rising, no listed slot holds 0, every slot below the capacity `n`. -/
def Memory.wf (n : Nat) : Memory → Bool
  | [] => true
  | (i, v) :: rest =>
    decide (i < n) && !v.isZero && rest.all (fun c => decide (i < c.1)) && Memory.wf n rest

/-- Ring buffer, 10_state.md R22. The capacity is the construction parameter `RB_CAP[r]`. -/
structure RingBuf where
  /-- the write cursor -/
  wc : Nat
  /-- the stored samples -/
  data : Memory
deriving DecidableEq, Repr

/-- Modulated delay, 10_state.md R23. -/
structure ModDelay where
  delaySamples : Int
  modRate : NUM
  modAmount : NUM
  interp : Bool
  phase : NUM
  out : List NUM
deriving DecidableEq, Repr

/-- Modulated allpass, 10_state.md R24. -/
structure Allpass where
  fb : NUM
  out : List NUM
deriving DecidableEq, Repr

/-- Biquad filter, 10_state.md R25. -/
structure Biquad where
  type : FilterType
  freq : NUM
  fs : NUM
  coeffs : Coeffs
  x1 : NUM
  x2 : NUM
  y1 : NUM
  y2 : NUM
deriving DecidableEq, Repr

/-- Grain, 10_state.md R26. -/
structure Grain where
  start : NUM
  len : NUM
  speed : NUM
  pos : NUM
  active : Bool
deriving DecidableEq, Repr

/-- The state of the pitch shifter's generator: its seed and how many values it has drawn since (45_granular.md R192,
R193). Every deterministic generator can be put so (assumption 9). -/
structure Rng where
  seed : Nat
  drawn : Nat
deriving DecidableEq, Repr

/-- Granular pitch shifter, 10_state.md R27. -/
structure Shifter where
  speed : NUM
  rng : Rng
  grains : List Grain
deriving DecidableEq, Repr

/-- The engine's registers and buffers, 10_state.md R28 to R30. -/
structure Engine where
  /-- the parameter registers `RV.P[0..12]` -/
  p : Vector NUM 13
  krt : NUM
  tankFb : NUM
  wet : NUM
  dry : NUM
  smoothedFreeze : NUM
  activeKrt : NUM
  /-- the snapshots `RV.prev[0..3]` -/
  prev : Vector (List NUM) 4
  /-- the scratch buffer `RV.s` -/
  mono : List NUM
  tankIn : List NUM
deriving DecidableEq, Repr

/-- The state of the hardware, 10_state.md R20. -/
structure Block where
  rb : Vector RingBuf 25
  md : Vector ModDelay 24
  ap : Vector Allpass 20
  bq : Vector Biquad 4
  gp : Shifter
  rv : Engine
deriving DecidableEq, Repr

/-- The packet slot an ill-typed operand stands in (60_exceptions.md R214, code 2). -/
inductive Slot where
  | a0 | a1 | a2 | a3 | xin0 | xin1
deriving DecidableEq, Repr

/-- A record of a contract violation, 60_exceptions.md R213, R214, in the order of the codes 1 to 9. An operation's mnemonic
and `INST` are recorded as the operation itself. -/
inductive Viol where
  /-- CV_ILLEGAL_CMD: the word does not decode (30_encoding.md R89) -/
  | illegalCmd (cmd : CmdWord)
  /-- CV_OPERAND: an operand is ill-typed or out of its bounds (30_encoding.md R88, 43_biquad.md R133, 44_reverb_engine.md
  R154) -/
  | operand (op : Instr) (slot : Slot) (value : NUM)
  /-- CV_RB_RANGE: a read outside the history window (40_ring_buffer.md R102) -/
  | rbRange (r : Nat) (pos : NUM)
  /-- CV_AP_FB: a feedback coefficient outside [0,1) is written (42_modulated_allpass.md R122, 44_reverb_engine.md R168) -/
  | apFb (a : Nat) (value : NUM)
  /-- CV_NONFINITE: cannot occur in exact arithmetic (00_scope.md R12); recorded by nothing (assumption 14) -/
  | nonfinite (op : Instr)
  /-- CV_BQ_PARAM: filtering with a frequency outside (0, fs/2] (43_biquad.md R135) -/
  | bqParam (q : Nat) (freq fs : NUM)
  /-- CV_RV_PARAM: RV.PROC while EarlyStages is no integer in 1..12 (44_reverb_engine.md R171) -/
  | rvParam (earlyStages : NUM)
  /-- CV_GP_RANGE: a speed that is not positive (45_granular.md R191) -/
  | gpRange (speed : NUM)
  /-- CV_OWNED: a direct operation on an instance whose owner has processed (70_reset_and_hazards.md R241) -/
  | owned (op : Instr)
deriving DecidableEq, Repr

/-- The number of a code, 60_exceptions.md R214. -/
def Viol.code : Viol → Nat
  | .illegalCmd _ => 1
  | .operand _ _ _ => 2
  | .rbRange _ _ => 3
  | .apFb _ _ => 4
  | .nonfinite _ => 5
  | .bqParam _ _ _ => 6
  | .rvParam _ => 7
  | .gpRange _ => 8
  | .owned _ => 9

/-- The operand slots of a packet, 30_encoding.md R80. -/
structure Operands where
  a0 : NUM
  a1 : NUM
  a2 : NUM
  a3 : NUM
  xin0 : List NUM
  xin1 : List NUM
deriving DecidableEq, Repr

/-- The slots while no packet is in execution. -/
def Operands.none : Operands := ⟨.rat 0, .rat 0, .rat 0, .rat 0, [], []⟩

/-- A command packet, 30_encoding.md R80. -/
structure Packet where
  cmd : CmdWord
  args : Operands
deriving DecidableEq, Repr

/-- A response packet, 30_encoding.md R80, R93. -/
structure Response where
  r0 : NUM
  xout0 : List NUM
  xout1 : List NUM
deriving DecidableEq, Repr

/-- Why the machine stops with a fault: it never does. "The block raises no synchronous exception" (60_exceptions.md R210)
and "every call to `process` is expected to always produce a full, finite-valued output block", so there is no
constructor. -/
inductive Fault where
deriving DecidableEq, Repr

/-- Why a step gives an instruction no meaning. A packet the spec calls refused is no case of this: it is a next state with
a record in `viol` (60_exceptions.md R213, R215). -/
inductive Refusal where
  /-- raised by an arm of `exec` that has no meaning yet (none is left); safe, nothing can be proved of such a step -/
  | notModelled (mnemonic : String)
deriving DecidableEq, Repr

/-- The whole state: the block, the spec's ghost record, and the model's own fields (INVENTORY.md, heading State). -/
structure State where
  /-- the construction parameters of 00_scope.md R9, constant -/
  cfg : Params
  /-- the hardware -/
  blk : Block
  /-- the ghost log VIOL, oldest first (10_state.md R32) -/
  viol : List Viol
  /-- ghost: the engine has executed an RV.PROC (70_reset_and_hazards.md R241) -/
  rvRan : Bool
  /-- ghost: the pitch shifter has executed a GP.PROC (70_reset_and_hazards.md R241) -/
  gpRan : Bool
  /-- the operand slots of the packet in execution -/
  args : Operands
  /-- the packets the host has sent and the core has not taken -/
  queue : List Packet
  /-- the responses sent, oldest first -/
  outbox : List Response
  /-- the script index of 10_state.md R45: how many packets have been completed -/
  idx : Nat
deriving DecidableEq, Repr

/-- The grains at reset, 10_state.md R40: grain i has `start = −G − i·G/NG`, `len = G`, `speed = 1`, `pos = −G`. -/
def Grain.reset (p : Params) (i : Nat) : Grain where
  start := p.grainLen.neg.sub (((NUM.ofNat i).mul p.grainLen).div (.ofNat p.numGrains))
  len := p.grainLen
  speed := .rat 1
  pos := p.grainLen.neg
  active := true

/-- A block of `B` zero samples. -/
def silence (p : Params) : List NUM := List.replicate p.blockSize (.rat 0)

/-- The coefficients before the first design, 10_state.md R40. -/
def Coeffs.zero : Coeffs := ⟨.rat 0, .rat 0, .rat 0, .rat 0, .rat 0⟩

/-- The hardware after reset, 10_state.md R40, for the construction `p`. -/
def Block.reset (p : Params) : Block where
  rb := Vector.replicate 25 ⟨0, []⟩
  md := Vector.replicate 24 ⟨0, .rat 0, .rat 0, false, .rat 0, silence p⟩
  ap := Vector.replicate 20 ⟨.rat 0, silence p⟩
  bq := Vector.ofFn fun q : Fin 4 =>
    ⟨p.bqTypeInit[q], .rat 0, p.sampleRate, Coeffs.zero, .rat 0, .rat 0, .rat 0, .rat 0⟩
  gp := ⟨.rat 1, ⟨0, 0⟩, (List.range p.numGrains).map (Grain.reset p)⟩
  rv :=
    { p := Vector.replicate 13 (.rat 0)
      krt := .rat 0
      tankFb := .rat 0
      wet := .rat 0
      dry := .rat 0
      smoothedFreeze := .rat 0
      activeKrt := .rat 0
      prev := Vector.replicate 4 (silence p)
      mono := silence p
      tankIn := silence p }

/-- The machine right after reset, for the construction `p`: "Reset is construction" (70_reset_and_hazards.md R230). -/
def State.resetWith (p : Params) : State where
  cfg := p
  blk := Block.reset p
  viol := []
  rvRan := false
  gpRan := false
  args := Operands.none
  queue := []
  outbox := []
  idx := 0

/-- The machine right after reset, for the construction with the test defaults of 00_scope.md R9 (assumption 2). -/
def State.reset : State := State.resetWith Params.testDefault

end Sys2Proof.Machine
end

