-- ==== Sys2Proof/Machine/Ops.lean ====
section
/-! DEFINITION. The named operations over sample storage, registers and the host interface that every meaning is built of. -/

namespace Sys2Proof

/-! ## Construction parameters (00_scope.md R9) -/

/-- The constraints R9 puts on every choice of the OPEN parameters. -/
def Params.valid (p : Params) : Bool :=
  decide (1 ≤ p.blockSize) && (NUM.rat 0).lt p.sampleRate && p.rbCap.toList.all (fun n => decide (1 ≤ n))
    && decide (1 ≤ p.numGrains) && (NUM.rat 0).lt p.grainLen
    && p.preLen.toList.all (fun l => (NUM.rat 0).le l) && p.tankApLen.toList.all (fun l => (NUM.rat 0).le l)
    && p.tankDlyLen.toList.all (fun l => (NUM.rat 0).le l)
    && p.preFb.toList.all (fun g => (NUM.rat 0).le g && g.lt (.rat 1))
    && [p.bqTypeInit[0], p.bqTypeInit[2]].all (fun t => t == .lowPass12 || t == .lowPass6)
    && [p.bqTypeInit[1], p.bqTypeInit[3]].all (fun t => t == .highPass12 || t == .highPass6)

end Sys2Proof

namespace Sys2Proof.Machine

/-! ## Sample storage (20_memory.md, 40_ring_buffer.md) -/

/-- The sample in a slot; a slot that is not listed holds 0 (R61). -/
def Memory.read (i : Nat) : Memory → NUM
  | [] => .rat 0
  | (j, u) :: rest => if i = j then u else Memory.read i rest

/-- Store a sample in a slot, keeping the canonical form. -/
def Memory.write (i : Nat) (v : NUM) : Memory → Memory
  | [] => if v.isZero then [] else [(i, v)]
  | (j, u) :: rest =>
    if i < j then if v.isZero then (j, u) :: rest else (i, v) :: (j, u) :: rest
    else if i = j then if v.isZero then rest else (i, v) :: rest
    else (j, u) :: Memory.write i v rest

/-- The storage quantiser `Qs` of R9. -/
def quantise : Quantiser → NUM → NUM
  | .identity, v => v
  | .free n, v => Config.freeQuant n v.digits

/-- `MemRead(r, i)`, 00_scope.md R13. -/
def memRead (b : RingBuf) (i : Nat) : NUM := b.data.read i

/-- `MemWrite(r, i, v)`, 00_scope.md R13: the value is stored through `Qs`. -/
def memWrite (p : Params) (b : RingBuf) (i : Nat) (v : NUM) : RingBuf :=
  { b with data := b.data.write i (quantise p.quant v) }

/-- `RbWrite(r, v)`, R101: store at the slot of the cursor, then advance the cursor. -/
def rbWrite (p : Params) (r : Fin 25) (b : RingBuf) (v : NUM) : RingBuf :=
  let b := memWrite p b (slotOf p.rbCap[r] b.wc) v
  { b with wc := b.wc + 1 }

/-- The value `RbRead(r, p)` returns, R102: linear interpolation between the slots of `floor(pos)` and `ceil(pos)`. -/
def rbRead (p : Params) (r : Fin 25) (b : RingBuf) (pos : NUM) : NUM :=
  let f := frac pos
  ((memRead b (slotOf p.rbCap[r] pos.floor)).mul ((NUM.rat 1).sub f)).add ((memRead b (slotOf p.rbCap[r] pos.ceil)).mul f)

/-- A read at `pos` lies in the history window `wc − N .. wc − 1`, 20_memory.md R62, R65. -/
def inWindow (n wc : Nat) (pos : NUM) : Bool :=
  decide ((wc : Int) - n ≤ pos.floor) && decide (pos.ceil ≤ (wc : Int) - 1)

/-- The record `RbRead(r, p)` leaves, R102: `CV_RB_RANGE` outside the window. -/
def rbReadViol (p : Params) (r : Fin 25) (b : RingBuf) (pos : NUM) : List Viol :=
  if inWindow p.rbCap[r] b.wc pos then [] else [.rbRange r pos]

/-! ## Registers -/

/-- `violate`, 60_exceptions.md R213: add records to the ghost log, changing nothing else. -/
def State.log (s : State) (vs : List Viol) : State := { s with viol := s.viol ++ vs }

/-- Write ring buffer `r`. -/
def State.setRb (s : State) (r : Fin 25) (b : RingBuf) : State :=
  { s with blk := { s.blk with rb := s.blk.rb.set r b } }

/-- Write modulated delay `m`. -/
def State.setMd (s : State) (m : Fin 24) (d : ModDelay) : State :=
  { s with blk := { s.blk with md := s.blk.md.set m d } }

/-- Write modulated allpass `a`. -/
def State.setAp (s : State) (a : Fin 20) (d : Allpass) : State :=
  { s with blk := { s.blk with ap := s.blk.ap.set a d } }

/-- Write biquad `q`. -/
def State.setBq (s : State) (q : Fin 4) (d : Biquad) : State :=
  { s with blk := { s.blk with bq := s.blk.bq.set q d } }

/-- Write the pitch shifter. -/
def State.setGp (s : State) (g : Shifter) : State := { s with blk := { s.blk with gp := g } }

/-- Write the engine's registers. -/
def State.setRv (s : State) (e : Engine) : State := { s with blk := { s.blk with rv := e } }

/-- The ring buffer `MD[m]` owns: `RB[m]` (10_state.md R21). -/
def rbOfMd (m : Fin 24) : Fin 25 := ⟨m, by omega⟩

/-- The delay `AP[a]` owns: `MD[4+a]` (10_state.md R21). -/
def mdOfAp (a : Fin 20) : Fin 24 := ⟨4 + a, by omega⟩

/-- A parameter register `RV.P[id]`, 10_state.md R28. -/
def State.param (s : State) (id : ParamId) : NUM := s.blk.rv.p[id.idx]

/-! ## The end of an operation (30_encoding.md R80, R93; 60_exceptions.md R210, R213, R215) -/

/-- A block slot of a response: the elements the operation produced, then free values up to `B` (R93). -/
def fillBlock (b idx slot : Nat) (produced : List NUM) : List NUM :=
  produced ++ (List.range (b - produced.length)).map fun i => Config.freeSlot idx slot (produced.length + i)

/-- The response of an operation that produces `r0` and the beginnings `x0`, `x1` of the block slots; every slot it does
not produce is free (R93). -/
def mkResponse (b idx : Nat) (r0 : Option NUM) (x0 x1 : List NUM) : Response where
  r0 := r0.getD (Config.freeSlot idx 0 0)
  xout0 := fillBlock b idx 1 x0
  xout1 := fillBlock b idx 2 x1

/-- End an operation: send its response, drop its packet, advance the script index (R80, 10_state.md R45). -/
def State.answer (s : State) (r0 : Option NUM) (x0 x1 : List NUM) : State :=
  { s with
    outbox := s.outbox ++ [mkResponse s.cfg.blockSize s.idx r0 x0 x1]
    args := Operands.none
    idx := s.idx + 1 }

/-- End an operation that produces no result. -/
def State.done (s : State) : State := s.answer none [] []

/-- Refuse a packet, R210, R215: one record, no result, the block unchanged. This is the spec's whole treatment of an
ill-formed request; no exception is taken. -/
def State.refuse (s : State) (v : Viol) : State := (s.log [v]).done

/-- Run an operation on instance `inst` of a unit with `n` instances. A word with another `INST` is illegal (R89 (b)); no
decoded instruction has one (assumption 12). -/
def onInstance (n : Nat) (i : Instr) (inst : Nat) (s : State) (run : Fin n → State) : Host.Outcome State Fault Refusal :=
  if h : inst < n then .next (run ⟨inst, h⟩) else .next (s.refuse (.illegalCmd (encode i)))

end Sys2Proof.Machine
end

