-- ==== Sys2Proof/Machine/Flags.lean ====
section
/-! DEFINITION. The conditions under which an operation that executes leaves a record (60_exceptions.md R214). The block has
no condition codes and no status flags (10_state.md R31); its mode bits are written by the operations that own them. -/

namespace Sys2Proof.Machine

/-- `CV_AP_FB`, code 4: a feedback coefficient outside `0 ≤ fb < 1` is written. -/
def fbViol (a : Fin 20) (g : NUM) : List Viol := if (NUM.rat 0).le g && g.lt (.rat 1) then [] else [.apFb a g]

/-- `CV_BQ_PARAM`, code 6: filtering while `freq` is outside `0 < freq ≤ fs/2`. -/
def bqViol (q : Fin 4) (d : Biquad) : List Viol :=
  if (NUM.rat 0).lt d.freq && d.freq.le (d.fs.div (.rat 2)) then [] else [.bqParam q d.freq d.fs]

/-- `CV_GP_RANGE`, code 8: a speed that is not positive. -/
def speedViol (v : NUM) : List Viol := if (NUM.rat 0).lt v then [] else [.gpRange v]

/-- `CV_OWNED`, code 9: a state-changing direct operation on an instance of the engine once the engine has processed,
70_reset_and_hazards.md R241. It is recorded before the operation's other records (assumption 7). -/
def State.engineOwned (s : State) (i : Instr) : State := if s.rvRan then s.log [.owned i] else s

/-- `CV_OWNED` for a direct write of ring buffer `r`: the pitch shifter owns `RB[24]`, the engine the others (R241). -/
def State.bufferOwned (s : State) (r : Fin 25) (i : Instr) : State :=
  if r = 24 then if s.gpRan then s.log [.owned i] else s else s.engineOwned i

end Sys2Proof.Machine
end

