-- ==== Sys2Proof/Machine/Operands.lean ====
section
/-! DEFINITION. The typed operand slots of 30_encoding.md R87, R88. An ill-typed operand gives the record of the refusal. -/

namespace Sys2Proof.Machine

/-- An "integer" slot, R88: its value if it is an integer. -/
def integerOperand (v : NUM) : Option Int := if (NUM.ofInt v.floor).same v then some v.floor else none

/-- An integer slot that must be at least 0 (`delaySamples`, `seed`), R88. -/
def naturalOperand (v : NUM) : Option Nat :=
  match integerOperand v with
  | some k => if 0 ≤ k then some k.toNat else none
  | none => none

/-- A "boolean" slot, R88: false when it equals 0, true otherwise. -/
def booleanOperand (v : NUM) : Bool := !v.isZero

/-- `bufSize`, R88: an integer with `0 ≤ bufSize ≤ B`. -/
def bufSizeOperand (b : Nat) (v : NUM) : Option Nat :=
  match naturalOperand v with
  | some l => if l ≤ b then some l else none
  | none => none

/-- The block operand of a one-channel PROC, R80, R88: the first `bufSize` elements of `xin0`. A block with fewer elements
has no legal length (93_implementation_defined.md U12, assumption 15). -/
def blockOperand (i : Instr) (s : State) : Except Viol (List NUM) :=
  match bufSizeOperand s.cfg.blockSize s.args.a0 with
  | some l =>
    if l ≤ s.args.xin0.length then .ok (s.args.xin0.take l) else .error (.operand i .xin0 (.ofNat s.args.xin0.length))
  | none => .error (.operand i .a0 s.args.a0)

/-- The two block operands of RV.PROC, R88: `bufSize` must equal `B`. -/
def stereoOperand (i : Instr) (s : State) : Except Viol (List NUM × List NUM) :=
  if s.args.a0.same (.ofNat s.cfg.blockSize) then
    if s.cfg.blockSize ≤ s.args.xin0.length then
      if s.cfg.blockSize ≤ s.args.xin1.length then
        .ok (s.args.xin0.take s.cfg.blockSize, s.args.xin1.take s.cfg.blockSize)
      else .error (.operand i .xin1 (.ofNat s.args.xin1.length))
    else .error (.operand i .xin0 (.ofNat s.args.xin0.length))
  else .error (.operand i .a0 s.args.a0)

/-- EarlyStages, 44_reverb_engine.md R154, R163, R175: an integer from 1 to 12, as the 0-based stage whose output is tapped. -/
def stageOperand (v : NUM) : Option (Fin 12) :=
  match naturalOperand v with
  | some k => if h : 1 ≤ k ∧ k ≤ 12 then some ⟨k - 1, by omega⟩ else none
  | none => none

/-- The defined domain of a parameter, the table of 44_reverb_engine.md R154. -/
def inDomain : ParamId → NUM → Bool
  | .decay, _ => true
  | .sizeEarly, v => (NUM.rat 0).le v
  | .sizeLate, v => (NUM.rat 0).le v
  | .diffuse, _ => true
  | .lowCutPre, _ => true
  | .highCutPre, _ => true
  | .modulate, _ => true
  | .mix, _ => true
  | .earlyStages, v => (stageOperand v).isSome
  | .interpolation, _ => true
  | .freeze, _ => true
  | .lowCutPost, _ => true
  | .highCutPost, _ => true

/-- Refuse with the record of an ill-typed operand, or go on with the operand. -/
def withOperand {α : Type} (s : State) (o : Except Viol α) (run : α → State) : State :=
  match o with
  | .ok a => run a
  | .error v => s.refuse v

end Sys2Proof.Machine
end

