-- ==== Sys2Proof/Machine/ModDelay.lean ====
section
/-! DEFINITION. The modulated-delay operations, 41_modulated_delay.md. -/

namespace Sys2Proof.Machine

/-- The LFO advanced by a block of `l` samples, R112 step 2, R114. -/
def ModDelay.advance (d : ModDelay) (l : Nat) : ModDelay := { d with phase := frac (d.phase.add (d.modRate.mul (.ofNat l))) }

/-- The modulation offset at the current phase, R114. -/
def ModDelay.offset (d : ModDelay) : NUM := d.modAmount.mul d.phase.sinTurns

/-- The position read for the sample of time index `t`, R112 step 3: `t − delaySamples + off`, rounded unless `interp`. -/
def ModDelay.tap (d : ModDelay) (t : Nat) : NUM :=
  let p := (NUM.ofInt (t - d.delaySamples)).add d.offset
  if d.interp then p else .ofInt (roundHalfUp p)

/-- Overwrite the beginning of an output buffer, leaving the rest as it is. -/
def overwrite (old new : List NUM) : List NUM := new ++ old.drop new.length

/-- Set the four parameter fields, R111: nothing else of the delay changes. -/
def ModDelay.setParams (d : ModDelay) (len : Int) (rate amount : NUM) (interp : Bool) : ModDelay :=
  { d with delaySamples := len, modRate := rate, modAmount := amount, interp := interp }

/-- The body of MD.PROC, R112: write the whole block, advance the LFO, then read. -/
def State.mdProc (s : State) (m : Fin 24) (x : List NUM) : State :=
  let r := rbOfMd m
  let k0 := s.blk.rb[r].wc
  let b := x.foldl (rbWrite s.cfg r) s.blk.rb[r]
  let d := s.blk.md[m].advance x.length
  let taps := (List.range x.length).map fun n => d.tap (k0 + n)
  let d := { d with out := overwrite d.out (taps.map (rbRead s.cfg r b)) }
  ((s.setRb r b).setMd m d).log (taps.flatMap (rbReadViol s.cfg r b))

/-- The body of MD.SETP and AP.SETP on the operand slots, R111, R121. -/
def State.mdSetParams (s : State) (m : Fin 24) (len : Nat) : State :=
  s.setMd m (s.blk.md[m].setParams len s.args.a1 s.args.a2 (booleanOperand s.args.a3))

/-- `delaySamples` of MD.SETP and AP.SETP: an integer ≥ 0, R88. -/
def delayOperand (i : Instr) (s : State) : Except Viol Nat :=
  match naturalOperand s.args.a0 with
  | some l => .ok l
  | none => .error (.operand i .a0 s.args.a0)

/-- MD.SETP `m, delaySamples, modRate, modAmount, interp`, R111. -/
def execMdSetp (m : Nat) (s : State) : Host.Outcome State Fault Refusal :=
  onInstance numMd (.mdSetp m) m s fun k =>
    withOperand s (delayOperand (.mdSetp m) s) fun len => ((s.engineOwned (.mdSetp m)).mdSetParams k len).done

/-- MD.PROC `m, [x0 ..]`, R112. -/
def execMdProc (m : Nat) (s : State) : Host.Outcome State Fault Refusal :=
  onInstance numMd (.mdProc m) m s fun k =>
    withOperand s (blockOperand (.mdProc m) s) fun x => ((s.engineOwned (.mdProc m)).mdProc k x).done

/-- MD.GETO `m`, R113: all B elements of the output buffer. -/
def execMdGeto (m : Nat) (s : State) : Host.Outcome State Fault Refusal :=
  onInstance numMd (.mdGeto m) m s fun k => s.answer none s.blk.md[k].out []

end Sys2Proof.Machine
end

