-- ==== Sys2Proof/Machine/Allpass.lean ====
section
/-! DEFINITION. The modulated-allpass operations, 42_modulated_allpass.md. -/

namespace Sys2Proof.Machine

/-- What the sample loop of AP.PROC has produced: the ring buffer, the outputs, the records. -/
structure ApRun where
  buf : RingBuf
  out : List NUM
  viol : List Viol
deriving DecidableEq, Repr

/-- The output term of R123, by `AP_FORM`. -/
def apOutput : ApForm → (g d u x : NUM) → NUM
  | .schroeder, g, d, u, _ => d.sub (g.mul u)
  | .literal, g, d, _, x => d.sub (g.mul x)

/-- The sample loop of AP.PROC, R123: per sample read, form `u`, write it. At sample n the cursor is `K0 + n`. -/
def apLoop (p : Params) (r : Fin 25) (m : ModDelay) (g : NUM) : RingBuf → List NUM → ApRun
  | b, [] => ⟨b, [], []⟩
  | b, x :: rest =>
    let pos := m.tap b.wc
    let d := rbRead p r b pos
    let u := x.add (g.mul d)
    let tail := apLoop p r m g (rbWrite p r b u) rest
    ⟨tail.buf, apOutput p.apForm g d u x :: tail.out, rbReadViol p r b pos ++ tail.viol⟩

/-- The body of AP.PROC, R123. -/
def State.apProc (s : State) (a : Fin 20) (x : List NUM) : State :=
  let r := rbOfMd (mdOfAp a)
  let m := s.blk.md[mdOfAp a].advance x.length
  let ap := s.blk.ap[a]
  let run := apLoop s.cfg r m ap.fb s.blk.rb[r] x
  (((s.setRb r run.buf).setMd (mdOfAp a) m).setAp a { ap with out := overwrite ap.out run.out }).log run.viol

/-- AP.SETP `a, delaySamples, modRate, modAmount, interp`, R121. -/
def execApSetp (a : Nat) (s : State) : Host.Outcome State Fault Refusal :=
  onInstance numAp (.apSetp a) a s fun k =>
    withOperand s (delayOperand (.apSetp a) s) fun len => ((s.engineOwned (.apSetp a)).mdSetParams (mdOfAp k) len).done

/-- AP.SETFB `a, fb`, R122: stored unchecked, with a record when it is outside [0,1). -/
def execApSetfb (a : Nat) (s : State) : Host.Outcome State Fault Refusal :=
  onInstance numAp (.apSetfb a) a s fun k =>
    (((s.engineOwned (.apSetfb a)).setAp k { s.blk.ap[k] with fb := s.args.a0 }).log (fbViol k s.args.a0)).done

/-- AP.PROC `a, [x0 ..]`, R123. -/
def execApProc (a : Nat) (s : State) : Host.Outcome State Fault Refusal :=
  onInstance numAp (.apProc a) a s fun k =>
    withOperand s (blockOperand (.apProc a) s) fun x => ((s.engineOwned (.apProc a)).apProc k x).done

/-- AP.GETO `a`, R124: all B elements of the output buffer. -/
def execApGeto (a : Nat) (s : State) : Host.Outcome State Fault Refusal :=
  onInstance numAp (.apGeto a) a s fun k => s.answer none s.blk.ap[k].out []

end Sys2Proof.Machine
end

