-- ==== Sys2Proof/Machine/Biquad.lean ====
section
/-! DEFINITION. The biquad operations, 43_biquad.md. -/

namespace Sys2Proof.Machine

/-- The default `BQ_DESIGN`, R137 to R139, with `w = 2·PI·f/fs` and `Q = 1/sqrt(2)`. PRESUMED by the spec itself ("from
general knowledge, not in source"). -/
def defaultDesign (t : FilterType) (f fs : NUM) : Coeffs :=
  let one : NUM := .rat 1
  let two : NUM := .rat 2
  let sinW := (f.div fs).sinTurns
  let cosW := (f.div fs).cosTurns
  let alpha := sinW.div (two.mul (one.div two.sqrt))
  let a0 := one.add alpha
  let a1 := ((NUM.rat (-2)).mul cosW).div a0
  let a2 := (one.sub alpha).div a0
  let p := (f.div fs).expNegTurns
  match t with
  | .lowPass12 =>
    let b0 := ((one.sub cosW).div two).div a0
    ⟨b0, (one.sub cosW).div a0, b0, a1, a2⟩
  | .highPass12 =>
    let b0 := ((one.add cosW).div two).div a0
    ⟨b0, (one.add cosW).neg.div a0, b0, a1, a2⟩
  | .lowPass6 => ⟨one.sub p, .rat 0, .rat 0, p.neg, .rat 0⟩
  | .highPass6 => ⟨(one.add p).div two, (one.add p).neg.div two, .rat 0, p.neg, .rat 0⟩

/-- `BQ_DESIGN` of R9, R134, R136: a function of type, frequency and sample rate; a 6 dB type has `b2 = a2 = 0`. -/
def designCoeffs : Design → FilterType → NUM → NUM → Coeffs
  | .default, t, f, fs => defaultDesign t f fs
  | .pass, _, _, _ => ⟨.rat 1, .rat 0, .rat 0, .rat 0, .rat 0⟩
  | .free n, t, f, fs =>
    let c := Config.freeDesign n t f.digits fs.digits
    if t.isFirstOrder then { c with b2 := .rat 0, a2 := .rat 0 } else c

/-- The body of BQ.UPDATE, R134: the coefficients only. -/
def Biquad.update (d : Design) (f : Biquad) : Biquad := { f with coeffs := designCoeffs d f.type f.freq f.fs }

/-- The output sample of the difference equation, R135. -/
def Biquad.output (f : Biquad) (x : NUM) : NUM :=
  let fed := ((f.coeffs.b0.mul x).add (f.coeffs.b1.mul f.x1)).add (f.coeffs.b2.mul f.x2)
  (fed.sub (f.coeffs.a1.mul f.y1)).sub (f.coeffs.a2.mul f.y2)

/-- The history after the sample `x` gave `y`, R135. -/
def Biquad.shift (f : Biquad) (x y : NUM) : Biquad := { f with x2 := f.x1, x1 := x, y2 := f.y1, y1 := y }

/-- The sample loop of BQ.PROC, R135: the filter after the block and the output block. -/
def bqLoop : Biquad → List NUM → Biquad × List NUM
  | f, [] => (f, [])
  | f, x :: rest =>
    let y := f.output x
    let tail := bqLoop (f.shift x y) rest
    (tail.1, y :: tail.2)

/-- The body of BQ.PROC, R135: the state after it and the output block. -/
def State.bqProc (s : State) (q : Fin 4) (x : List NUM) : State × List NUM :=
  let run := bqLoop s.blk.bq[q] x
  ((s.log (bqViol q s.blk.bq[q])).setBq q run.1, run.2)

/-- BQ.SETTYPE `q, type`, R131. -/
def execBqSettype (q : Nat) (t : FilterType) (s : State) : Host.Outcome State Fault Refusal :=
  onInstance numBq (.bqSettype q t) q s fun k =>
    ((s.engineOwned (.bqSettype q t)).setBq k { s.blk.bq[k] with type := t }).done

/-- BQ.SETFREQ `q, f`, R132: stored unchecked. -/
def execBqSetfreq (q : Nat) (s : State) : Host.Outcome State Fault Refusal :=
  onInstance numBq (.bqSetfreq q) q s fun k =>
    ((s.engineOwned (.bqSetfreq q)).setBq k { s.blk.bq[k] with freq := s.args.a0 }).done

/-- The sample rate of BQ.SETFS must be positive, R88, R133. -/
def rateOperand (i : Instr) (s : State) : Except Viol NUM :=
  if (NUM.rat 0).lt s.args.a0 then .ok s.args.a0 else .error (.operand i .a0 s.args.a0)

/-- BQ.SETFS `q, fs`, R133. -/
def execBqSetfs (q : Nat) (s : State) : Host.Outcome State Fault Refusal :=
  onInstance numBq (.bqSetfs q) q s fun k =>
    withOperand s (rateOperand (.bqSetfs q) s) fun v =>
      ((s.engineOwned (.bqSetfs q)).setBq k { s.blk.bq[k] with fs := v }).done

/-- BQ.UPDATE `q`, R134. -/
def execBqUpdate (q : Nat) (s : State) : Host.Outcome State Fault Refusal :=
  onInstance numBq (.bqUpdate q) q s fun k =>
    ((s.engineOwned (.bqUpdate q)).setBq k (s.blk.bq[k].update s.cfg.design)).done

/-- BQ.PROC `q, [x0 ..]`, R135. -/
def execBqProc (q : Nat) (s : State) : Host.Outcome State Fault Refusal :=
  onInstance numBq (.bqProc q) q s fun k =>
    withOperand s (blockOperand (.bqProc q) s) fun x =>
      let run := (s.engineOwned (.bqProc q)).bqProc k x
      run.1.answer none run.2 []

end Sys2Proof.Machine
end

