-- ==== Sys2Proof/Machine/Granular.lean ====
section
/-! DEFINITION. The granular-pitch-shifter operations, 45_granular.md. -/

namespace Sys2Proof.Machine

/-- GP.SETSPEED `s`, R191: stored unchecked, with a record when it is not positive. -/
def execGpSetspeed (s : State) : Host.Outcome State Fault Refusal :=
  .next ((s.setGp { s.blk.gp with speed := s.args.a0 }).log (speedViol s.args.a0)).done

/-- GP.SEED `k`, R192. -/
def execGpSeed (s : State) : Host.Outcome State Fault Refusal :=
  .next <|
    match naturalOperand s.args.a0 with
    | some k => (s.setGp { s.blk.gp with rng := ⟨k, 0⟩ }).done
    | none => s.refuse (.operand .gpSeed .a0 s.args.a0)

/-- The value drawn at a generator state, R193: the fractional part of a draw, so that `0 ≤ u < 1`. -/
def rngValue : RngSel → Rng → NUM
  | .free n, g => frac (Config.freeDraw n g.seed g.drawn)
  | .listed l, g => frac (l.getD g.drawn (.rat 0))

/-- `Rand(g)`, R193: the value and the generator after it. -/
def rand (sel : RngSel) (g : Rng) : NUM × Rng := (rngValue sel g, { g with drawn := g.drawn + 1 })

/-- `Window(u)`, R195. -/
def window (u : NUM) : NUM :=
  let one : NUM := .rat 1
  let tri := one.sub (((NUM.rat 2).mul u).sub one).abs
  let rest := one.sub tri
  ((rest.mul tri).mul tri).add (tri.mul (one.sub (rest.mul rest)))

/-- `Reseed(i, K0, npr)`, R196: the new grain and the generator after its two draws, jitter first. -/
def reseed (p : Params) (speed : NUM) (k0 npr : Nat) (g : Rng) : Grain × Rng :=
  let u1 := rand p.rng g
  let u2 := rand p.rng u1.2
  let start := ((NUM.ofNat (k0 + npr)).sub p.grainLen).add (jitterMax.mul u1.1)
  (⟨start, p.grainLen.mul ((NUM.rat 1).add u2.1), speed, start, true⟩, u2.2)

/-- The sample a grain contributes, R194: the interpolated read at its position times its window value. -/
def grainSample (p : Params) (b : RingBuf) (g : Grain) : NUM :=
  (rbRead p 24 b g.pos).mul (window ((g.pos.sub g.start).div g.len))

/-- The grain advanced by its speed, R194. -/
def Grain.advance (g : Grain) : Grain := { g with pos := g.pos.add g.speed }

/-- The expiry test, R194: the read position "exceeds start+length". -/
def Grain.expired (g : Grain) : Bool := (g.start.add g.len).lt g.pos

/-- What one grain's pass over a block has produced: its contributions, the grain, the generator, the records. -/
structure GrainRun where
  out : List NUM
  grain : Grain
  rng : Rng
  viol : List Viol
deriving DecidableEq, Repr

/-- One grain over the rest of a block, R194 step 3: `todo` samples are left and `n` have been processed. -/
def grainLoop (p : Params) (speed : NUM) (b : RingBuf) (k0 : Nat) : (todo n : Nat) → Grain → Rng → GrainRun
  | 0, _, g, rng => ⟨[], g, rng, []⟩
  | todo + 1, n, g, rng =>
    let next := if g.advance.expired then reseed p speed k0 (n + 1) rng else (g.advance, rng)
    let tail := grainLoop p speed b k0 todo (n + 1) next.1 next.2
    ⟨grainSample p b g :: tail.out, tail.grain, tail.rng, rbReadViol p 24 b g.pos ++ tail.viol⟩

/-- What the pool's pass over a block has produced: the accumulated output, the grains, the generator, the records. -/
structure PoolRun where
  out : List NUM
  grains : List Grain
  rng : Rng
  viol : List Viol
deriving DecidableEq, Repr

/-- The grains one after the other, R194 step 3: grain-major, accumulating into `acc`. -/
def poolLoop (p : Params) (speed : NUM) (b : RingBuf) (k0 l : Nat) : List Grain → Rng → List NUM → PoolRun
  | [], rng, acc => ⟨acc, [], rng, []⟩
  | g :: rest, rng, acc =>
    let run := grainLoop p speed b k0 l 0 g rng
    let tail := poolLoop p speed b k0 l rest run.rng (List.zipWith .add acc run.out)
    ⟨tail.out, run.grain :: tail.grains, tail.rng, run.viol ++ tail.viol⟩

/-- `1/sqrt(NG/2)`, R199. -/
def grainNorm (p : Params) : NUM := (NUM.rat 1).div ((NUM.ofNat p.numGrains).div (.rat 2)).sqrt

/-- The body of GP.PROC, R194: write the block, run the pool from a zeroed output, scale. The state after it and the output
block. -/
def State.gpProc (s : State) (x : List NUM) : State × List NUM :=
  let k0 := s.blk.rb[24].wc
  let b := x.foldl (rbWrite s.cfg 24) s.blk.rb[24]
  let gp := s.blk.gp
  let run := poolLoop s.cfg gp.speed b k0 x.length gp.grains gp.rng (List.replicate x.length (.rat 0))
  (((s.setRb 24 b).setGp { gp with rng := run.rng, grains := run.grains }).log run.viol,
    run.out.map fun v => v.mul (grainNorm s.cfg))

/-- GP.PROC `[x0 ..]`, R194. -/
def execGpProc (s : State) : Host.Outcome State Fault Refusal :=
  .next <| withOperand s (blockOperand .gpProc s) fun x =>
    let run := s.gpProc x
    ({ run.1 with gpRan := true }).answer none run.2 []

end Sys2Proof.Machine
end

