-- ==== Sys2Proof/Machine/Reverb.lean ====
section
/-! DEFINITION. The reverb-engine operations, 44_reverb_engine.md. -/

namespace Sys2Proof.Machine

/-! ## UpdateAll (R168): from the thirteen parameters to everything derived from them -/

/-- `Krt`, R169: `pow(10, −3·rt/T60)` with `rt = 0.15·sqrt(SizeLate)` and `T60 = max(Decay, 0.1)`. -/
def loopGain (decay sizeLate : NUM) : NUM :=
  let t60 := decay.greater (.rat (1 / 10))
  let rt := (NUM.rat (3 / 20)).mul sizeLate.sqrt
  (((NUM.rat (-3)).mul rt).div t60).pow10

/-- `tankFb`, R158. -/
def tankFeedback (diffuse : NUM) : NUM := (NUM.rat (1 / 2)).add (((NUM.rat 1).sub diffuse).mul (.rat (49 / 100)))

/-- `wet`, R162. -/
def wetGain (mix : NUM) : NUM := clip (mix.mul (.rat 2)) (.rat 0) (.rat 1)

/-- `dry`, R162. -/
def dryGain (mix : NUM) : NUM := clip ((NUM.rat 2).sub (mix.mul (.rat 2))) (.rat 0) (.rat 1)

/-- The scaled length of delay `m` before rounding, R156, R157: the tank delays 0..3 by SizeLate, the pre-diffusers 4..15 by
SizeEarly, the tank diffusers 16..23 by `0.2 + SizeLate·0.8`. -/
def scaledLength (p : Params) (sizeEarly sizeLate : NUM) (m : Fin 24) : NUM :=
  if h : m.val < 4 then p.tankDlyLen[m.val].mul sizeLate
  else if h : m.val < 16 then p.preLen[m.val - 4].mul sizeEarly
  else p.tankApLen[m.val - 16].mul ((NUM.rat (1 / 5)).add (sizeLate.mul (.rat (4 / 5))))

/-- The construction LFO rate of delay `m`, R168. -/
def stageRate (p : Params) (m : Fin 24) : NUM :=
  if h : m.val < 4 then p.tankDlyRate[m.val]
  else if h : m.val < 16 then p.preRate[m.val - 4]
  else p.tankApRate[m.val - 16]

/-- The LFO depth baseline of delay `m`, R161: 200 on tank delay 0, 25 on every other stage. -/
def stageDepth (m : Fin 24) : NUM := if m.val = 0 then modFirst else modBase

/-- The feedback of allpass `a`, R128, R168: the construction constant for a pre-diffuser, `tankFb` for a tank diffuser. -/
def stageFeedback (p : Params) (tankFb : NUM) (a : Fin 20) : NUM :=
  if h : a.val < 12 then p.preFb[a.val] else tankFb

/-- The parameter that is the frequency of filter `q`, R170: HighCutPre, LowCutPre, HighCutPost, LowCutPost. -/
def cutParam : Fin 4 → ParamId
  | 0 => .highCutPre
  | 1 => .lowCutPre
  | 2 => .highCutPost
  | 3 => .lowCutPost

/-- Delay `m` after UpdateAll, R168: its four parameter fields. -/
def updatedDelay (s : State) (m : Fin 24) : ModDelay :=
  s.blk.md[m].setParams (scaledLength s.cfg (s.param .sizeEarly) (s.param .sizeLate) m).floor (stageRate s.cfg m)
    ((s.param .modulate).mul (stageDepth m)) (booleanOperand (s.param .interpolation))

/-- The derived scalar registers after UpdateAll, R168. -/
def updatedEngine (s : State) : Engine :=
  { s.blk.rv with
    krt := loopGain (s.param .decay) (s.param .sizeLate)
    tankFb := tankFeedback (s.param .diffuse)
    wet := wetGain (s.param .mix)
    dry := dryGain (s.param .mix) }

/-- `UpdateAll()`, R168. A coefficient written outside [0,1) is recorded, in the order of the instances (assumption 6). -/
def State.updateAll (s : State) : State :=
  let fb := stageFeedback s.cfg (tankFeedback (s.param .diffuse))
  { s with
    blk :=
      { s.blk with
        md := Vector.ofFn (updatedDelay s)
        ap := Vector.ofFn fun a : Fin 20 => { s.blk.ap[a] with fb := fb a }
        bq := Vector.ofFn fun q : Fin 4 => ({ s.blk.bq[q] with freq := s.param (cutParam q) }).update s.cfg.design
        rv := updatedEngine s }
    viol := s.viol ++ (List.finRange 20).flatMap fun a => fbViol a (fb a) }

/-- RV.UPDATEALL, R168. -/
def execRvUpdateall (s : State) : Host.Outcome State Fault Refusal := .next s.updateAll.done

/-! ## RV.SETPARAM (R154 to R167) -/

/-- Write a parameter register, R154. -/
def State.setParam (s : State) (id : ParamId) (v : NUM) : State :=
  s.setRv { s.blk.rv with p := s.blk.rv.p.set id.idx v }

/-- The common part of RV.SETPARAM, R154: a value outside the defined domain is refused; another is stored as given, and
everything derived is recomputed. -/
def State.rvSetparam (s : State) (i : Instr) (id : ParamId) : State :=
  if inDomain id s.args.a0 then (s.setParam id s.args.a0).updateAll.done else s.refuse (.operand i .a0 s.args.a0)

/-- RV.SETPARAM Decay, R155. -/
def execRvSetDecay (s : State) : Host.Outcome State Fault Refusal := .next (s.rvSetparam .rvSetDecay .decay)

/-- RV.SETPARAM SizeEarly, R156. -/
def execRvSetSizeEarly (s : State) : Host.Outcome State Fault Refusal :=
  .next (s.rvSetparam .rvSetSizeEarly .sizeEarly)

/-- RV.SETPARAM SizeLate, R157. -/
def execRvSetSizeLate (s : State) : Host.Outcome State Fault Refusal := .next (s.rvSetparam .rvSetSizeLate .sizeLate)

/-- RV.SETPARAM Diffuse, R158. -/
def execRvSetDiffuse (s : State) : Host.Outcome State Fault Refusal := .next (s.rvSetparam .rvSetDiffuse .diffuse)

/-- RV.SETPARAM LowCutPre, R159. -/
def execRvSetLowCutPre (s : State) : Host.Outcome State Fault Refusal :=
  .next (s.rvSetparam .rvSetLowCutPre .lowCutPre)

/-- RV.SETPARAM HighCutPre, R160. -/
def execRvSetHighCutPre (s : State) : Host.Outcome State Fault Refusal :=
  .next (s.rvSetparam .rvSetHighCutPre .highCutPre)

/-- RV.SETPARAM Modulate, R161. -/
def execRvSetModulate (s : State) : Host.Outcome State Fault Refusal := .next (s.rvSetparam .rvSetModulate .modulate)

/-- RV.SETPARAM Mix, R162. -/
def execRvSetMix (s : State) : Host.Outcome State Fault Refusal := .next (s.rvSetparam .rvSetMix .mix)

/-- RV.SETPARAM EarlyStages, R163. -/
def execRvSetEarlyStages (s : State) : Host.Outcome State Fault Refusal :=
  .next (s.rvSetparam .rvSetEarlyStages .earlyStages)

/-- RV.SETPARAM Interpolation, R164. -/
def execRvSetInterpolation (s : State) : Host.Outcome State Fault Refusal :=
  .next (s.rvSetparam .rvSetInterpolation .interpolation)

/-- RV.SETPARAM Freeze, R165. -/
def execRvSetFreeze (s : State) : Host.Outcome State Fault Refusal := .next (s.rvSetparam .rvSetFreeze .freeze)

/-- RV.SETPARAM LowCutPost, R166. -/
def execRvSetLowCutPost (s : State) : Host.Outcome State Fault Refusal :=
  .next (s.rvSetparam .rvSetLowCutPost .lowCutPost)

/-- RV.SETPARAM HighCutPost, R167. -/
def execRvSetHighCutPost (s : State) : Host.Outcome State Fault Refusal :=
  .next (s.rvSetparam .rvSetHighCutPost .highCutPost)

/-! ## RV.PROC (R171 to R178) -/

/-- Step 0, R172: one step of the freeze smoother, and the gain of this block. -/
def State.smoothFreeze (s : State) : State :=
  let f : NUM := if booleanOperand (s.param .freeze) then .rat 1 else .rat 0
  let sm := (s.blk.rv.smoothedFreeze.mul (.rat (19 / 20))).add (f.mul (.rat (1 / 20)))
  s.setRv { s.blk.rv with smoothedFreeze := sm, activeKrt := sm.add (((NUM.rat 1).sub sm).mul s.blk.rv.krt) }

/-- Steps 1 and 2, R173: the plain sum of the channels, filtered by `BQ[0]` and then `BQ[1]`, left in `RV.s`. -/
def State.preFilter (s : State) (inL inR : List NUM) : State :=
  let lp := s.bqProc 0 (List.zipWith .add inL inR)
  let hp := lp.1.bqProc 1 lp.2
  hp.1.setRv { hp.1.blk.rv with mono := hp.2 }

/-- Step 3, R174: a block through allpasses in series, each fed with the output buffer of the one before. -/
def State.chain (s : State) : List (Fin 20) → List NUM → State
  | [], _ => s
  | a :: rest, c =>
    let s' := s.apProc a c
    s'.chain rest s'.blk.ap[a].out

/-- The twelve pre-diffusers in order (10_state.md R21). -/
def preStages : List (Fin 20) := [0, 1, 2, 3, 4, 5, 6, 7, 8, 9, 10, 11]

/-- Step 4, R175: half the output of the tapped pre-diffuser, left in `RV.tankIn`. -/
def State.tapTank (s : State) (stage : Fin 12) : State :=
  s.setRv { s.blk.rv with tankIn := s.blk.ap[stage.val].out.map fun v => (NUM.rat (1 / 2)).mul v }

/-- Step 5a, R176: the snapshots of the four lane outputs, before any lane runs. -/
def State.snapshot (s : State) : State :=
  s.setRv { s.blk.rv with prev := Vector.ofFn fun i : Fin 4 => s.blk.md[i.val].out }

/-- The input of lane `i`, R177: the tank input plus the gain times the previous block's output of the lane before. -/
def laneInput (s : State) (i : Fin 4) : List NUM :=
  List.zipWith (fun t v => t.add (s.blk.rv.activeKrt.mul v)) s.blk.rv.tankIn s.blk.rv.prev[(i.val + 3) % 4]

/-- The post filters of lane 0, R177: `BQ[2]`, then `BQ[3]`. -/
def State.postFilter (s : State) (x : List NUM) : State × List NUM :=
  let lp := s.bqProc 2 x
  lp.1.bqProc 3 lp.2

/-- The diffusers of lane `i` (10_state.md R21). -/
def laneDiffuser (i : Fin 4) (k : Fin 2) : Fin 20 := ⟨12 + 2 * i + k, by omega⟩

/-- The delay of lane `i` (10_state.md R21). -/
def laneDelay (i : Fin 4) : Fin 24 := ⟨i, by omega⟩

/-- Step 5b for lane `i`, R177: the post filters on lane 0 only, two diffusers in series, one delay. -/
def State.lane (s : State) (i : Fin 4) : State :=
  let x := laneInput s i
  let f := if i = 0 then s.postFilter x else (s, x)
  let d := f.1.chain [laneDiffuser i 0, laneDiffuser i 1] f.2
  d.mdProc (laneDelay i) d.blk.ap[laneDiffuser i 1].out

/-- Step 6, R178, one channel: the wet sum of two lanes plus the dry input. -/
def outputMix (e : Engine) (laneA laneB input : List NUM) : List NUM :=
  List.zipWith (fun w x => (e.wet.mul w).add (e.dry.mul x)) (List.zipWith .add laneA laneB) input

/-- Steps 0 to 5 of RV.PROC, R171, in order. -/
def State.rvBlock (s : State) (stage : Fin 12) (inL inR : List NUM) : State :=
  let s := s.smoothFreeze.preFilter inL inR
  let s := s.chain preStages s.blk.rv.mono
  let s := (s.tapTank stage).snapshot
  (((s.lane 0).lane 1).lane 2).lane 3

/-- RV.PROC `[l0 ..], [r0 ..]`, R171: refused while EarlyStages is no integer in 1..12. -/
def execRvProc (s : State) : Host.Outcome State Fault Refusal :=
  .next <| withOperand s (stereoOperand .rvProc s) fun x =>
    match stageOperand (s.param .earlyStages) with
    | none => s.refuse (.rvParam (s.param .earlyStages))
    | some stage =>
      let t := s.rvBlock stage x.1 x.2
      let outL := outputMix t.blk.rv t.blk.md[0].out t.blk.md[2].out x.1
      let outR := outputMix t.blk.rv t.blk.md[1].out t.blk.md[3].out x.2
      ({ t with rvRan := true }).answer none outL outR

end Sys2Proof.Machine
end

