-- ==== Sys2Proof/Machine/RingBuffer.lean ====
section
/-! DEFINITION. The ring-buffer operations, 40_ring_buffer.md. -/

namespace Sys2Proof.Machine

/-- RB.WRITE `r, v`, R103. -/
def execRbWrite (r : Nat) (s : State) : Host.Outcome State Fault Refusal :=
  onInstance numRb (.rbWrite r) r s fun k =>
    ((s.bufferOwned k (.rbWrite r)).setRb k (rbWrite s.cfg k s.blk.rb[k] s.args.a0)).done

/-- RB.READ `r, p`, R104. -/
def execRbRead (r : Nat) (s : State) : Host.Outcome State Fault Refusal :=
  onInstance numRb (.rbRead r) r s fun k =>
    (s.log (rbReadViol s.cfg k s.blk.rb[k] s.args.a0)).answer (some (rbRead s.cfg k s.blk.rb[k] s.args.a0)) [] []

end Sys2Proof.Machine
end

