-- ==== Sys2Proof/Machine/Dispatch.lean ====
section
/-! DEFINITION. The dispatch of an instruction to its meaning, one arm per row of the opcode table. -/

namespace Sys2Proof.Machine

def exec (i : Instr) (s : State) : Host.Outcome State Fault Refusal :=
  match i with
  | .rbWrite r => Sys2Proof.Machine.execRbWrite r s
  | .rbRead r => Sys2Proof.Machine.execRbRead r s
  | .mdSetp m => Sys2Proof.Machine.execMdSetp m s
  | .mdProc m => Sys2Proof.Machine.execMdProc m s
  | .mdGeto m => Sys2Proof.Machine.execMdGeto m s
  | .apSetp a => Sys2Proof.Machine.execApSetp a s
  | .apSetfb a => Sys2Proof.Machine.execApSetfb a s
  | .apProc a => Sys2Proof.Machine.execApProc a s
  | .apGeto a => Sys2Proof.Machine.execApGeto a s
  | .bqSettype q t => Sys2Proof.Machine.execBqSettype q t s
  | .bqSetfreq q => Sys2Proof.Machine.execBqSetfreq q s
  | .bqSetfs q => Sys2Proof.Machine.execBqSetfs q s
  | .bqUpdate q => Sys2Proof.Machine.execBqUpdate q s
  | .bqProc q => Sys2Proof.Machine.execBqProc q s
  | .rvSetDecay => Sys2Proof.Machine.execRvSetDecay s
  | .rvSetSizeEarly => Sys2Proof.Machine.execRvSetSizeEarly s
  | .rvSetSizeLate => Sys2Proof.Machine.execRvSetSizeLate s
  | .rvSetDiffuse => Sys2Proof.Machine.execRvSetDiffuse s
  | .rvSetLowCutPre => Sys2Proof.Machine.execRvSetLowCutPre s
  | .rvSetHighCutPre => Sys2Proof.Machine.execRvSetHighCutPre s
  | .rvSetModulate => Sys2Proof.Machine.execRvSetModulate s
  | .rvSetMix => Sys2Proof.Machine.execRvSetMix s
  | .rvSetEarlyStages => Sys2Proof.Machine.execRvSetEarlyStages s
  | .rvSetInterpolation => Sys2Proof.Machine.execRvSetInterpolation s
  | .rvSetFreeze => Sys2Proof.Machine.execRvSetFreeze s
  | .rvSetLowCutPost => Sys2Proof.Machine.execRvSetLowCutPost s
  | .rvSetHighCutPost => Sys2Proof.Machine.execRvSetHighCutPost s
  | .rvUpdateall => Sys2Proof.Machine.execRvUpdateall s
  | .rvProc => Sys2Proof.Machine.execRvProc s
  | .gpSetspeed => Sys2Proof.Machine.execGpSetspeed s
  | .gpSeed => Sys2Proof.Machine.execGpSeed s
  | .gpProc => Sys2Proof.Machine.execGpProc s

end Sys2Proof.Machine
end

