-- ==== Sys2Proof/Machine/Fetch.lean ====
section
/-! DEFINITION. Taking a packet and running it (00_scope.md R7, 30_encoding.md R80, R89). -/

namespace Sys2Proof.Machine

/-- Take the first waiting packet: its operand slots are copied in (20_memory.md R72). -/
def State.take (s : State) (p : Packet) (rest : List Packet) : State := { s with queue := rest, args := p.args }

/-- Run one packet: decode its word and run the operation; an illegal word is refused (30_encoding.md R89). -/
def runPacket (p : Packet) (s : State) : Host.Outcome State Fault Refusal :=
  match decode p.cmd with
  | .ok i => exec i s
  | .error _ => .next (s.refuse (.illegalCmd p.cmd))

/-- The packet of an opcode-table row's bits: every bit above `nbits` and every operand slot 0. -/
def wordPacket (nbits w : Nat) : Packet := ⟨BitVec.ofNat 32 (w % 2 ^ nbits), Operands.none⟩

end Sys2Proof.Machine
end

