-- ==== Sys2Proof/Machine/Step.lean ====
section
/-! DEFINITION. One step of the machine: the core takes one packet and runs it to completion (00_scope.md R7). -/

namespace Sys2Proof.Machine

/-- One step. With no packet waiting the block is idle and keeps its state (60_exceptions.md R223). -/
def step (s : State) : Host.Outcome State Fault Refusal :=
  match s.queue with
  | [] => .next s
  | p :: rest => runPacket p (s.take p rest)

/-- `s` with the packet of an opcode-table row's bits the next one the core takes (assumption 3). -/
def State.withFetchWord (s : State) (nbits w : Nat) : State := { s with queue := wordPacket nbits w :: s.queue }

end Sys2Proof.Machine
end

