-- ==== Sys2Proof/Machine/Packets.lean ====
section
/-! DEFINITION. The packets of the assembler lines of 30_encoding.md R91, one function a mnemonic, and the expansions of the
pseudo-operations of R92. A block operand carries its own length, which is `bufSize` (R91). -/

namespace Sys2Proof.Machine

/-- A packet with up to four scalar operands and no block. -/
def scalarPacket (i : Instr) (a0 a1 a2 a3 : NUM) : Packet := ⟨encode i, ⟨a0, a1, a2, a3, [], []⟩⟩

/-- A packet with one scalar operand. -/
def onePacket (i : Instr) (a0 : NUM) : Packet := scalarPacket i a0 (.rat 0) (.rat 0) (.rat 0)

/-- A packet with no operand. -/
def barePacket (i : Instr) : Packet := onePacket i (.rat 0)

/-- A packet with one block operand. -/
def blockPacket (i : Instr) (x : List NUM) : Packet := ⟨encode i, ⟨.ofNat x.length, .rat 0, .rat 0, .rat 0, x, []⟩⟩

namespace Packet

def rbWrite (r : Nat) (v : NUM) : Packet := onePacket (.rbWrite r) v
def rbRead (r : Nat) (p : NUM) : Packet := onePacket (.rbRead r) p
def mdSetp (m : Nat) (delaySamples modRate modAmount interp : NUM) : Packet :=
  scalarPacket (.mdSetp m) delaySamples modRate modAmount interp
def mdProc (m : Nat) (x : List NUM) : Packet := blockPacket (.mdProc m) x
def mdGeto (m : Nat) : Packet := barePacket (.mdGeto m)
def apSetp (a : Nat) (delaySamples modRate modAmount interp : NUM) : Packet :=
  scalarPacket (.apSetp a) delaySamples modRate modAmount interp
def apSetfb (a : Nat) (fb : NUM) : Packet := onePacket (.apSetfb a) fb
def apProc (a : Nat) (x : List NUM) : Packet := blockPacket (.apProc a) x
def apGeto (a : Nat) : Packet := barePacket (.apGeto a)
def bqSettype (q : Nat) (t : FilterType) : Packet := barePacket (.bqSettype q t)
def bqSetfreq (q : Nat) (f : NUM) : Packet := onePacket (.bqSetfreq q) f
def bqSetfs (q : Nat) (fs : NUM) : Packet := onePacket (.bqSetfs q) fs
def bqUpdate (q : Nat) : Packet := barePacket (.bqUpdate q)
def bqProc (q : Nat) (x : List NUM) : Packet := blockPacket (.bqProc q) x
def rvUpdateall : Packet := barePacket .rvUpdateall
/-- RV.PROC with its two blocks. `bufSize` is the length of the left one: R91 says only that it is the length of a list, not
which where the two differ (DESIGN CHOICE, assumption 19). -/
def rvProc (l r : List NUM) : Packet := ⟨encode .rvProc, ⟨.ofNat l.length, .rat 0, .rat 0, .rat 0, l, r⟩⟩
def gpSetspeed (v : NUM) : Packet := onePacket .gpSetspeed v
def gpSeed (k : NUM) : Packet := onePacket .gpSeed k
def gpProc (x : List NUM) : Packet := blockPacket .gpProc x

/-- The row of RV.SETPARAM that writes a parameter (R85). -/
def setparamInstr : ParamId → Instr
  | .decay => .rvSetDecay
  | .sizeEarly => .rvSetSizeEarly
  | .sizeLate => .rvSetSizeLate
  | .diffuse => .rvSetDiffuse
  | .lowCutPre => .rvSetLowCutPre
  | .highCutPre => .rvSetHighCutPre
  | .modulate => .rvSetModulate
  | .mix => .rvSetMix
  | .earlyStages => .rvSetEarlyStages
  | .interpolation => .rvSetInterpolation
  | .freeze => .rvSetFreeze
  | .lowCutPost => .rvSetLowCutPost
  | .highCutPost => .rvSetHighCutPost

def rvSetparam (id : ParamId) (v : NUM) : Packet := onePacket (setparamInstr id) v

end Packet

/-- The thirteen ids in order (R85). -/
def allParams : List ParamId :=
  [.decay, .sizeEarly, .sizeLate, .diffuse, .lowCutPre, .highCutPre, .modulate, .mix, .earlyStages, .interpolation, .freeze,
    .lowCutPost, .highCutPost]

/-- `MD.DELAY m, d`, R92. -/
def pseudoMdDelay (m : Nat) (d : NUM) : List Packet := [Packet.mdSetp m d (.rat 0) (.rat 0) (.rat 0)]

/-- `AP.INIT a, d, fb`, R92. -/
def pseudoApInit (a : Nat) (d fb : NUM) : List Packet := [Packet.apSetp a d (.rat 0) (.rat 0) (.rat 0), Packet.apSetfb a fb]

/-- `BQ.CONFIG q, type, f`, R92. -/
def pseudoBqConfig (q : Nat) (t : FilterType) (f : NUM) : List Packet :=
  [Packet.bqSettype q t, Packet.bqSetfreq q f, Packet.bqUpdate q]

/-- `RV.FREEZE on` and `RV.FREEZE off`, R92. -/
def pseudoRvFreeze (on : Bool) : List Packet := [Packet.rvSetparam .freeze (if on then .rat 1 else .rat 0)]

/-- `RV.BOOT v0, ..., v12`, R92. -/
def pseudoRvBoot (v : Vector NUM 13) : List Packet := allParams.map fun id => Packet.rvSetparam id v[id.idx]

end Sys2Proof.Machine
end

