-- ==== Sys2Proof/Machine/Value.lean ====
section
/-! DEFINITION. Which real number an expression of NUM names (00_scope.md R11, R13). The machine never evaluates it: it is what
the claims about the machine's arithmetic are stated in. -/

namespace Sys2Proof

/-- The real number a NUM is. -/
noncomputable def NUM.val : NUM → ℝ
  | .rat q => q
  | .given i => Config.freeInt i + ∑' k, ((NUM.bitTerm i k : ℚ) : ℝ)
  | .pi => Real.pi
  | .ln10 => Real.log 10
  | .sum a b => a.val + b.val
  | .prod a b => a.val * b.val
  | .opp a => -a.val
  | .recip k a => (max (1 / (k + 1)) a.val)⁻¹
  | .root a => √a.val
  | .sine a => Real.sin a.val
  | .expo a => Real.exp a.val

end Sys2Proof
end

