-- ==== Sys2Proof/Safety.lean ====
section
/-! DEFINITION. What counts as a safe run, in the terms claims use: no recorded violation, the windows that keep reads in
range, and the invariants of the state. -/

namespace Sys2Proof.Machine

/-- No contract violation is recorded: the premise of a claim about a well-driven block, 60_exceptions.md R213. -/
def State.clean (s : State) : Prop := s.viol = []

/-- The sufficient condition of 41_modulated_delay.md R115 for a block of `l` samples and a buffer of capacity `n`: "valid
for every LFO phase". -/
def ModDelay.inDelayWindow (d : ModDelay) (n l : Nat) : Prop :=
  |d.modAmount.val| ≤ d.delaySamples ∧ d.delaySamples + |d.modAmount.val| + l ≤ n

/-- The sufficient condition of 42_modulated_allpass.md R126 for a buffer of capacity `n`: "for every LFO phase". -/
def ModDelay.inAllpassWindow (d : ModDelay) (n : Nat) : Prop :=
  1 ≤ d.delaySamples - |d.modAmount.val| ∧ d.delaySamples + |d.modAmount.val| ≤ n

/-- Every storage is in its canonical form: slots rising and below the capacity, no listed slot holds 0 (20_memory.md R60,
R61). -/
def State.memoryCanonical (s : State) : Prop :=
  (∀ r : Fin 25, 1 ≤ s.cfg.rbCap[r]) ∧ ∀ r : Fin 25, Memory.wf s.cfg.rbCap[r] s.blk.rb[r].data = true

/-- The shape of the state, which "never changes" (10_state.md R20, 45_granular.md R201): every buffer of `B` samples has B
samples, the pool has NG grains, and every response has two blocks of B. -/
structure State.shape (s : State) : Prop where
  mdOut : ∀ m : Fin 24, s.blk.md[m].out.length = s.cfg.blockSize
  apOut : ∀ a : Fin 20, s.blk.ap[a].out.length = s.cfg.blockSize
  prev : ∀ i : Fin 4, s.blk.rv.prev[i].length = s.cfg.blockSize
  mono : s.blk.rv.mono.length = s.cfg.blockSize
  tankIn : s.blk.rv.tankIn.length = s.cfg.blockSize
  grains : s.blk.gp.grains.length = s.cfg.numGrains
  answers : ∀ a ∈ s.outbox, a.xout0.length = s.cfg.blockSize ∧ a.xout1.length = s.cfg.blockSize

/-- The ranges the rules give the registers: lengths of delays not negative and phases in [0,1) (10_state.md R23), filter
rates positive (43_biquad.md R133), sizes and EarlyStages in their defined domains or at reset (44_reverb_engine.md R154),
gains in [0,1] (10_state.md R29), grains active with a positive length (10_state.md R26). -/
structure State.ranges (s : State) : Prop where
  cfg : s.cfg.valid = true
  delay : ∀ m : Fin 24, 0 ≤ s.blk.md[m].delaySamples
  phase : ∀ m : Fin 24, 0 ≤ s.blk.md[m].phase.val ∧ s.blk.md[m].phase.val < 1
  rate : ∀ q : Fin 4, 0 < s.blk.bq[q].fs.val
  sizes : 0 ≤ (s.param .sizeEarly).val ∧ 0 ≤ (s.param .sizeLate).val
  stages : (s.param .earlyStages).val = 0 ∨ (stageOperand (s.param .earlyStages)).isSome = true
  loopGain : 0 ≤ s.blk.rv.krt.val ∧ s.blk.rv.krt.val ≤ 1
  wet : 0 ≤ s.blk.rv.wet.val ∧ s.blk.rv.wet.val ≤ 1
  dry : 0 ≤ s.blk.rv.dry.val ∧ s.blk.rv.dry.val ≤ 1
  freeze : 0 ≤ s.blk.rv.smoothedFreeze.val ∧ s.blk.rv.smoothedFreeze.val ≤ 1
  activeGain : 0 ≤ s.blk.rv.activeKrt.val ∧ s.blk.rv.activeKrt.val ≤ 1
  grains : ∀ g ∈ s.blk.gp.grains, 0 < g.len.val ∧ g.active = true

end Sys2Proof.Machine
end

