-- ==== Sys2Proof/Certificates/Slice0/Obligations.lean ====
section
/-! DEFINITION. The statements for the provers. Each is a proposition about the machine; none is proved here. Numbers are
compared as the exact real numbers they are (`NUM.val`), registers and samples that an operation leaves alone as data. -/

namespace Sys2Proof.Claims

open Sys2Proof.Machine

/-- The model's own host interface (assumptions 3, 4): what the end of an operation does outside the block, whichever operation it was
(30_encoding.md R80, R93; 10_state.md
R45): the packet is gone, the script index has advanced by 1, and one more response is sent, in which the slots the
operation produces hold `r0` and begin with `x0` and `x1`. Nothing is said of a slot that is not produced. -/
structure Completed (s t : State) (r0 : Option NUM) (x0 x1 : List NUM) : Prop where
  cfg : t.cfg = s.cfg
  queue : t.queue = s.queue
  args : t.args = Operands.none
  idx : t.idx = s.idx + 1
  answer : ∃ a : Response, t.outbox = s.outbox ++ [a] ∧ (∀ v, r0 = some v → a.r0 = v) ∧
    a.xout0.take x0.length = x0 ∧ a.xout1.take x1.length = x1

/-- The ghost flags of 70_reset_and_hazards.md R241 stay. -/
def sameOwners (s t : State) : Prop := t.rvRan = s.rvRan ∧ t.gpRan = s.gpRan

/-- The number at place `n` of a block. -/
noncomputable def sampleAt (x : List NUM) (n : Nat) : ℝ := (x.getD n (.rat 0)).val

/-- The numbers of a block. -/
noncomputable def numbers (x : List NUM) : List ℝ := x.map NUM.val

/-- 40_ring_buffer.md R102: what a read at the real position `pos` gives. -/
noncomputable def readValue (p : Params) (r : Fin 25) (b : RingBuf) (pos : ℝ) : ℝ :=
  (memRead b (slotOf p.rbCap[r] ⌊pos⌋)).val * (1 - (pos - ⌊pos⌋)) +
    (memRead b (slotOf p.rbCap[r] ⌈pos⌉)).val * (pos - ⌊pos⌋)

/-- 40_ring_buffer.md R102: the record CV_RB_RANGE of a read at `pos`, outside the window `wc − N .. wc − 1`. -/
noncomputable def rangeRecord (p : Params) (r : Fin 25) (b : RingBuf) (pos : NUM) : List Viol :=
  if ⌊pos.val⌋ < (b.wc : Int) - p.rbCap[r] ∨ (b.wc : Int) - 1 < ⌈pos.val⌉ then [.rbRange r pos] else []

/-- A refused packet (60_exceptions.md R210, R215): the block keeps its state, there is exactly one more record, no result. -/
def Refused (s t : State) (v : Viol) : Prop :=
  t.blk = s.blk ∧ t.viol = s.viol ++ [v] ∧ sameOwners s t ∧ Completed s t none [] []

/-- The record CV_OWNED, when the owner has processed (70_reset_and_hazards.md R241). That it stands before the operation's other
records is the model's choice (assumption 7). -/
def ownedRecord (ran : Bool) (i : Instr) : List Viol := if ran then [.owned i] else []

/-- The slots that `l` samples written from cursor `wc` go to, in a buffer of capacity `n` (20_memory.md R61). -/
def storedSlots (n wc l : Nat) : List Nat := (List.range l).map fun k => slotOf n (wc + k : Nat)

/-- The legal (UNIT, OP) pairs of 30_encoding.md R83 with the number of instances (R84) and of selectors (R85, R86, 1 where
SEL must be 0). -/
def legalOperations : List (Nat × Nat × Nat × Nat) :=
  [(1, 0, 25, 1), (1, 1, 25, 1), (2, 0, 24, 1), (2, 1, 24, 1), (2, 2, 24, 1), (3, 0, 20, 1), (3, 1, 20, 1), (3, 2, 20, 1),
    (3, 3, 20, 1), (4, 0, 4, 4), (4, 1, 4, 1), (4, 2, 4, 1), (4, 3, 4, 1), (4, 4, 4, 1), (5, 0, 1, 13), (5, 1, 1, 1),
    (5, 2, 1, 1), (6, 0, 1, 1), (6, 1, 1, 1), (6, 2, 1, 1)]

/-- The conditions (a) to (d) of 30_encoding.md R89 on the bits of a command word. -/
def legalWord (w : CmdWord) : Prop :=
  (∃ row ∈ legalOperations, (w.extractLsb' 28 4).toNat = row.1 ∧ (w.extractLsb' 24 4).toNat = row.2.1 ∧
    (w.extractLsb' 16 8).toNat < row.2.2.1 ∧ (w.extractLsb' 8 8).toNat < row.2.2.2) ∧ w.extractLsb' 0 8 = 0#8

/-- A stream through MD.PROC in successive blocks: the state after them and the concatenated outputs (41_modulated_delay.md
R116). -/
def mdStream (m : Fin 24) : State → List (List NUM) → List NUM
  | _, [] => []
  | s, x :: rest => ((s.mdProc m x).blk.md[m].out.take x.length) ++ mdStream m (s.mdProc m x) rest

/-- A stream through BQ.PROC in successive blocks: the concatenated outputs (43_biquad.md R140). -/
def bqStream (q : Fin 4) : State → List (List NUM) → List NUM
  | _, [] => []
  | s, x :: rest => (s.bqProc q x).2 ++ bqStream q (s.bqProc q x).1 rest

/-- The sample `k` places before place `n` of the stream `z` whose previous two samples are `h1` and, before it, `h2`
(43_biquad.md R135). -/
def delayed (h1 h2 : NUM) (z : List NUM) (n k : Nat) : NUM :=
  if k ≤ n then z.getD (n - k) (.rat 0) else if k = n + 1 then h1 else h2

/-- The position MD.PROC and AP.PROC read for the sample of time index `t` at an LFO phase (41_modulated_delay.md R112, R114):
`t − delaySamples + modAmount·sin(2·PI·phase)`, rounded to the nearest integer, halves up, unless `interp`. -/
noncomputable def readPosition (d : ModDelay) (phase : ℝ) (t : Nat) : ℝ :=
  let p := (t : ℝ) - d.delaySamples + d.modAmount.val * Real.sin (2 * Real.pi * phase)
  if d.interp then p else ⌊p + 1 / 2⌋

/-- The operands of an RV.PROC that runs (30_encoding.md R88, 44_reverb_engine.md R171, R175): a block size of exactly `B`, two blocks
of at least `B` samples, and EarlyStages the integer `stage + 1`. -/
def EngineReady (s : State) (stage : Fin 12) : Prop :=
  s.args.a0.val = s.cfg.blockSize ∧ s.cfg.blockSize ≤ s.args.xin0.length ∧ s.cfg.blockSize ≤ s.args.xin1.length ∧
    (s.param .earlyStages).val = (stage.val + 1 : Nat)

/-- A stream through AP.PROC in successive blocks: the concatenated outputs (42_modulated_allpass.md R125). -/
def apStream (a : Fin 20) : State → List (List NUM) → List NUM
  | _, [] => []
  | s, x :: rest => ((s.apProc a x).blk.ap[a].out.take x.length) ++ apStream a (s.apProc a x) rest

/-- The reset state of a construction with `AP[a]` set to a delay of `d` samples, the depth `depth` and the feedback `g`. -/
def fixedAllpass (p : Params) (a : Fin 20) (d : Nat) (rate depth : NUM) (interp : Bool) (g : NUM) : State :=
  let s := State.resetWith p
  (s.setMd (mdOfAp a) (s.blk.md[mdOfAp a].setParams d rate depth interp)).setAp a { s.blk.ap[a] with fb := g }

/-- Between `s` and `t` allpass `a` has processed the block `x` (42_modulated_allpass.md R123): its whole output buffer and
its storage are what the sample loop makes of `x`, with the phase advanced once. -/
def AllpassRan (s t : State) (a : Fin 20) (x : List NUM) : Prop :=
  let run := apLoop s.cfg (rbOfMd (mdOfAp a)) (s.blk.md[mdOfAp a].advance x.length) s.blk.ap[a].fb
    s.blk.rb[rbOfMd (mdOfAp a)] x
  t.blk.ap[a].out = run.out ∧ t.blk.rb[rbOfMd (mdOfAp a)] = run.buf

/-- Between `s` and `t` delay `m` has processed the block `x` (41_modulated_delay.md R112): `x` is stored, the phase has
advanced once, and output sample `n` is the read at its position. -/
def DelayRan (s t : State) (m : Fin 24) (x : List NUM) : Prop :=
  t.blk.rb[rbOfMd m] = x.foldl (rbWrite s.cfg (rbOfMd m)) s.blk.rb[rbOfMd m] ∧
    t.blk.md[m].phase.val = Int.fract (s.blk.md[m].phase.val + s.blk.md[m].modRate.val * x.length) ∧
    ∀ n < x.length, sampleAt t.blk.md[m].out n = readValue s.cfg (rbOfMd m) t.blk.rb[rbOfMd m]
      (readPosition s.blk.md[m] t.blk.md[m].phase.val (s.blk.rb[rbOfMd m].wc + n))

/-- What one grain does with the sample of block index `n` (45_granular.md R194, R196): it advances by its speed, and when
its position then exceeds `start + len` it is reseeded with `n + 1` samples processed. -/
def GrainStep (p : Params) (speed : NUM) (k0 n : Nat) (g g' : Grain) (r r' : Rng) : Prop :=
  if g.start.val + g.len.val < g.pos.val + g.speed.val then (g', r') = reseed p speed k0 (n + 1) r
  else g' = { g with pos := g'.pos } ∧ g'.pos.val = g.pos.val + g.speed.val ∧ r' = r

/-- The envelope of 45_granular.md R195 at a real `u`. -/
noncomputable def envelope (u : ℝ) : ℝ :=
  let tri := 1 - |2 * u - 1|
  (1 - tri) * tri ^ 2 + tri * (1 - (1 - tri) ^ 2)

/-- What UpdateAll makes of a delay (44_reverb_engine.md R168): the four parameter fields, and nothing else. -/
def DelaySet (d d' : ModDelay) (length : ℝ) (rate : NUM) (depth : ℝ) (interp : NUM) : Prop :=
  d' = { d with
    delaySamples := ⌊length⌋, modRate := rate, modAmount := d'.modAmount, interp := decide (interp.val ≠ 0) } ∧
    d'.modAmount.val = depth

/-- The operations that write every derived register: RV.UPDATEALL and the thirteen RV.SETPARAM, which contain it. -/
def updates (i : Instr) : Prop := i = .rvUpdateall ∨ ∃ id, i = Packet.setparamInstr id

/-- The operations that write the parameter fields of delay `m` (10_state.md R23). -/
def setsDelay (i : Instr) (m : Fin 24) : Prop :=
  i = .mdSetp m ∨ (∃ a : Fin 20, i = .apSetp a ∧ mdOfAp a = m) ∨ updates i

/-- The operations that process with delay `m`: its own PROC, the PROC of the allpass that owns it, and RV.PROC. -/
def runsDelay (i : Instr) (m : Fin 24) : Prop :=
  i = .mdProc m ∨ (∃ a : Fin 20, i = .apProc a ∧ mdOfAp a = m) ∨ i = .rvProc

/-- Every stored sample, output sample and filter history of the block is 0 (44_reverb_engine.md R183). -/
def Silent (b : Block) : Prop :=
  (∀ r : Fin 25, b.rb[r].data = []) ∧ (∀ m : Fin 24, ∀ v ∈ b.md[m].out, v.val = 0) ∧
    (∀ a : Fin 20, ∀ v ∈ b.ap[a].out, v.val = 0) ∧
    ∀ q : Fin 4, b.bq[q].x1.val = 0 ∧ b.bq[q].x2.val = 0 ∧ b.bq[q].y1.val = 0 ∧ b.bq[q].y2.val = 0

/-- The table of 44_reverb_engine.md R154: the values a parameter may be set to. -/
def definedDomain : ParamId → NUM → Prop
  | .sizeEarly, v => 0 ≤ v.val
  | .sizeLate, v => 0 ≤ v.val
  | .earlyStages, v => ∃ n : Nat, 1 ≤ n ∧ n ≤ 12 ∧ v.val = n
  | _, _ => True

/-- The operations that hold their parameters to a type (30_encoding.md R88) and the record of one that is ill-typed: the
`delaySamples` of a SETP, the `bufSize` of a one-channel PROC, the rate of BQ.SETFS, the seed. -/
def illTyped (s : State) (i : Instr) : Prop :=
  match i with
  | .mdSetp m => m < 24 ∧ ∀ n : Nat, s.args.a0.val ≠ n
  | .apSetp a => a < 20 ∧ ∀ n : Nat, s.args.a0.val ≠ n
  | .mdProc m => m < 24 ∧ ∀ n : Nat, n ≤ s.cfg.blockSize → s.args.a0.val ≠ n
  | .apProc a => a < 20 ∧ ∀ n : Nat, n ≤ s.cfg.blockSize → s.args.a0.val ≠ n
  | .bqProc q => q < 4 ∧ ∀ n : Nat, n ≤ s.cfg.blockSize → s.args.a0.val ≠ n
  | .gpProc => ∀ n : Nat, n ≤ s.cfg.blockSize → s.args.a0.val ≠ n
  | .bqSetfs q => q < 4 ∧ s.args.a0.val ≤ 0
  | .gpSeed => ∀ n : Nat, s.args.a0.val ≠ n
  | .rvProc => s.args.a0.val ≠ s.cfg.blockSize
  | .rvSetSizeEarly => s.args.a0.val < 0
  | .rvSetSizeLate => s.args.a0.val < 0
  | .rvSetEarlyStages => ∀ n : Nat, 1 ≤ n → n ≤ 12 → s.args.a0.val ≠ n
  | _ => False

end Sys2Proof.Claims

open Sys2Proof Sys2Proof.Machine Sys2Proof.Claims

/-! ## Encoding and the step -/

/-- Words written out in 95_test_vectors.md section 2 and the worked example of 30_encoding.md R94, read by the decoder. -/
def Obligations.DecodeReadsSpecWords : Prop :=
  decode 0x10180000 = .ok (.rbWrite 24) ∧ decode 0x21170000 = .ok (.mdProc 23) ∧
    decode 0x310D0000 = .ok (.apSetfb 13) ∧ decode 0x40020200 = .ok (.bqSettype 2 .highPass12) ∧
    decode 0x50000A00 = .ok .rvSetFreeze ∧ decode 0x52000000 = .ok .rvProc ∧ decode 0x61000000 = .ok .gpSeed ∧
    decode 0x10190000 = .error .badInstance ∧ decode 0x40000400 = .error .badSelector ∧
    decode 0x10000001 = .error .zeroByte ∧ decode 0x70000000 = .error .noSuchOperation

/-- Decoding the word of a well-formed operation gives the operation back, with every `INST` and every `SEL`. -/
def Obligations.DecodeInvertsEncode : Prop := ∀ i : Instr, i.wf = true → decode (encode i) = .ok i

/-- Every word that decodes is the word of the operation it decodes to, and that operation is well formed: no bit of a legal
word is ignored. -/
def Obligations.EncodeInvertsDecode : Prop :=
  ∀ (w : CmdWord) (i : Instr), decode w = .ok i → i.wf = true ∧ encode i = w

/-- 30_encoding.md R89: a word decodes exactly when (a) to (d) hold; a packet with another word is refused. That a refused
packet is answered, with a free response, and that the log is a list are the model's (assumptions 3, 4, 5, 6). -/
def Obligations.LegalWordsDecodeOthersAreRefused : Prop :=
  (∀ w : CmdWord, (∃ i, decode w = .ok i) ↔ legalWord w) ∧
    ∀ (s : State) (p : Packet) (rest : List Packet), s.queue = p :: rest → ¬ legalWord p.cmd →
      ∃ t, step s = .next t ∧ Refused (s.take p rest) t (.illegalCmd p.cmd)

/-- The step runs the decoded operation of the first waiting packet on the state in which that packet has left the queue and
its operand slots are copied in; with no packet waiting it keeps the state (the queue is the model's own, assumption 3). -/
def Obligations.StepRunsTheDecodedOperation : Prop :=
  (∀ (s : State) (p : Packet) (rest : List Packet) (i : Instr), s.queue = p :: rest → decode p.cmd = .ok i →
      step s = exec i { s with queue := rest, args := p.args }) ∧
    ∀ s : State, s.queue = [] → step s = .next s

/-- Every packet, legal or illegal, ends in a next state: it leaves the queue, one response is sent, the script index
advances by exactly 1 (10_state.md R45), the construction stays, and no record is ever taken out of VIOL (R32). -/
def Obligations.EveryPacketIsAnswered : Prop :=
  ∀ (s : State) (p : Packet) (rest : List Packet), s.queue = p :: rest →
    ∃ t, step s = .next t ∧ Completed (s.take p rest) t none [] [] ∧ ∃ vs, t.viol = s.viol ++ vs

/-! ## Ring buffers -/

/-- 40_ring_buffer.md R101 as RB.WRITE runs it: the sample goes, through `Qs`, to the slot of the cursor, and the cursor
advances by 1; every other slot and everything else of the block stays. The record CV_OWNED and its place (70_reset_and_hazards.md
R241, assumption 7) and the clause `Completed` (assumptions 3, 4) are the model's. -/
def Obligations.RbWriteStoresAtTheCursor : Prop :=
  ∀ (s : State) (r : Fin 25), Memory.wf s.cfg.rbCap[r] s.blk.rb[r].data = true →
    ∃ t, exec (.rbWrite r) s = .next t ∧ t.blk.rb[r].wc = s.blk.rb[r].wc + 1 ∧
      (memRead t.blk.rb[r] (slotOf s.cfg.rbCap[r] s.blk.rb[r].wc)).val = (quantise s.cfg.quant s.args.a0).val ∧
      (∀ j : Nat, j ≠ slotOf s.cfg.rbCap[r] s.blk.rb[r].wc → memRead t.blk.rb[r] j = memRead s.blk.rb[r] j) ∧
      (∀ k : Fin 25, k ≠ r → t.blk.rb[k] = s.blk.rb[k]) ∧ t.blk = { s.blk with rb := t.blk.rb } ∧
      t.viol = s.viol ++ ownedRecord (if r = 24 then s.gpRan else s.rvRan) (.rbWrite r) ∧ sameOwners s t ∧
      Completed s t none [] []

/-- 40_ring_buffer.md R102 as RB.READ runs it: the interpolated value of the two neighbouring slots, a record exactly when
one of them is outside the window, and no change of the block. The clause `Completed` is the model's (assumptions 3, 4). -/
def Obligations.RbReadInterpolates : Prop :=
  ∀ (s : State) (r : Fin 25), ∃ (t : State) (v : NUM), exec (.rbRead r) s = .next t ∧ t.blk = s.blk ∧ sameOwners s t ∧
    t.viol = s.viol ++ rangeRecord s.cfg r s.blk.rb[r] s.args.a0 ∧
    v.val = readValue s.cfg r s.blk.rb[r] s.args.a0.val ∧ Completed s t (some v) [] []

/-- 40_ring_buffer.md R105: reading back, at its own integer time index, any sample of a written stream that is still in the
window gives exactly that sample, when `Qs` is the identity. -/
def Obligations.ReadReturnsTheWrittenSample : Prop :=
  ∀ (p : Params) (r : Fin 25) (b : RingBuf) (x : List NUM) (k : Nat) (pos : NUM), k < x.length → p.quant = .identity →
    1 ≤ p.rbCap[r] → Memory.wf p.rbCap[r] b.data = true → x.length ≤ k + p.rbCap[r] → pos.val = (b.wc + k : Nat) →
    (rbRead p r (x.foldl (rbWrite p r) b) pos).val = sampleAt x k

/-- 20_memory.md section 1, start-up: a negative time index inside the window reads 0, when `Qs` is the identity. -/
def Obligations.StartUpReadsSilence : Prop :=
  ∀ (p : Params) (r : Fin 25) (x : List NUM) (a : Int) (pos : NUM), p.quant = .identity → 1 ≤ p.rbCap[r] →
    (x.length : Int) - p.rbCap[r] ≤ a → a < 0 → pos.val = a → (rbRead p r (x.foldl (rbWrite p r) ⟨0, []⟩) pos).val = 0

/-- 10_state.md section 2: no operation ever moves a write cursor back. -/
def Obligations.CursorsNeverDecrease : Prop :=
  ∀ (i : Instr) (s t : State), exec i s = .next t → ∀ r : Fin 25, s.blk.rb[r].wc ≤ t.blk.rb[r].wc

/-! ## Modulated delays -/

/-- 41_modulated_delay.md R111: MD.SETP with a natural `delaySamples` writes the four parameter fields of its delay and nothing
else of the block; with any other it is refused (30_encoding.md R88). The place of CV_OWNED (assumption 7), the response to a
refused packet (assumptions 4, 5) and the clause `Completed` (assumption 3) are the model's. -/
def Obligations.MdSetpWritesFourFields : Prop :=
  ∀ (s : State) (m : Fin 24),
    (∀ d : Nat, s.args.a0.val = d → ∃ t, exec (.mdSetp m) s = .next t ∧
      t.blk.md[m] = { s.blk.md[m] with
        delaySamples := d, modRate := s.args.a1, modAmount := s.args.a2, interp := decide (s.args.a3.val ≠ 0) } ∧
      (∀ k : Fin 24, k ≠ m → t.blk.md[k] = s.blk.md[k]) ∧ t.blk = { s.blk with md := t.blk.md } ∧
      t.viol = s.viol ++ ownedRecord s.rvRan (.mdSetp m) ∧ sameOwners s t ∧ Completed s t none [] []) ∧
    ((∀ d : Nat, s.args.a0.val ≠ d) → ∃ t, exec (.mdSetp m) s = .next t ∧ Refused s t (.operand (.mdSetp m) .a0 s.args.a0))

/-- MD.PROC on `l` samples: the whole block is written before any sample is read, the phase advances once, sample n of the
output is the read at `K0 + n − delaySamples + off`, and the rest of the output buffer, of the delay and of the block
stays. -/
def Obligations.MdProcWritesThenReads : Prop :=
  ∀ (s : State) (m : Fin 24) (l : Nat), s.args.a0.val = l → l ≤ s.cfg.blockSize → l ≤ s.args.xin0.length →
    Memory.wf s.cfg.rbCap[rbOfMd m] s.blk.rb[rbOfMd m].data = true → 1 ≤ s.cfg.rbCap[rbOfMd m] →
    ∃ (t : State) (pos : List NUM), exec (.mdProc m) s = .next t ∧ pos.length = l ∧
      t.blk.rb[rbOfMd m] = (s.args.xin0.take l).foldl (rbWrite s.cfg (rbOfMd m)) s.blk.rb[rbOfMd m] ∧
      t.blk.rb[rbOfMd m].wc = s.blk.rb[rbOfMd m].wc + l ∧
      (∀ j : Nat, j ∉ storedSlots s.cfg.rbCap[rbOfMd m] s.blk.rb[rbOfMd m].wc l →
        memRead t.blk.rb[rbOfMd m] j = memRead s.blk.rb[rbOfMd m] j) ∧
      t.blk.md[m].phase.val = Int.fract (s.blk.md[m].phase.val + s.blk.md[m].modRate.val * l) ∧
      (∀ n < l,
        sampleAt pos n = readPosition s.blk.md[m] t.blk.md[m].phase.val (s.blk.rb[rbOfMd m].wc + n) ∧
        sampleAt t.blk.md[m].out n = readValue s.cfg (rbOfMd m) t.blk.rb[rbOfMd m] (sampleAt pos n)) ∧
      (∀ n, l ≤ n → t.blk.md[m].out[n]? = s.blk.md[m].out[n]?) ∧
      t.blk.md[m] = { s.blk.md[m] with phase := t.blk.md[m].phase, out := t.blk.md[m].out } ∧
      (∀ k : Fin 24, k ≠ m → t.blk.md[k] = s.blk.md[k]) ∧
      (∀ k : Fin 25, k ≠ rbOfMd m → t.blk.rb[k] = s.blk.rb[k]) ∧
      t.blk = { s.blk with rb := t.blk.rb, md := t.blk.md } ∧ sameOwners s t ∧
      t.viol = s.viol ++ ownedRecord s.rvRan (.mdProc m) ++
        pos.flatMap (rangeRecord s.cfg (rbOfMd m) t.blk.rb[rbOfMd m]) ∧
      Completed s t none [] []

/-- 41_modulated_delay.md R116: from reset, with `modAmount = 0`, any rate and either `interp`, the output stream of MD.PROC
is the input stream delayed by `delaySamples` and preceded by zeros, however the stream is cut into blocks, as long as every
read stays in the window. -/
def Obligations.PureDelayStream : Prop :=
  ∀ (p : Params) (m : Fin 24) (d : Nat) (rate depth : NUM) (interp : Bool) (blocks : List (List NUM)) (n : Nat),
    p.quant = .identity → 1 ≤ p.rbCap[rbOfMd m] → depth.val = 0 →
    (∀ x ∈ blocks, x.length ≤ p.blockSize ∧ d + x.length ≤ p.rbCap[rbOfMd m]) → n < blocks.flatten.length →
    let s := State.resetWith p
    let y := mdStream m (s.setMd m (s.blk.md[m].setParams d rate depth interp)) blocks
    n < y.length ∧ sampleAt y n = if d ≤ n then sampleAt blocks.flatten (n - d) else 0

/-- MD.GETO (41_modulated_delay.md R113) and AP.GETO (42_modulated_allpass.md R124) return the whole output buffer and change
nothing of the block. The clause `Completed` is the model's (assumptions 3, 4). -/
def Obligations.GetoReturnsTheOutputBuffer : Prop :=
  (∀ (s : State) (m : Fin 24), ∃ t, exec (.mdGeto m) s = .next t ∧ t.blk = s.blk ∧ t.viol = s.viol ∧ sameOwners s t ∧
      Completed s t none s.blk.md[m].out []) ∧
    ∀ (s : State) (a : Fin 20), ∃ t, exec (.apGeto a) s = .next t ∧ t.blk = s.blk ∧ t.viol = s.viol ∧ sameOwners s t ∧
      Completed s t none s.blk.ap[a].out []

/-- The sufficient condition of 41_modulated_delay.md R115: with `abs(modAmount) <= delaySamples` and
`delaySamples + abs(modAmount) + L <= N`, a block of `L` samples is processed without an out-of-window read, at every LFO
phase. -/
def Obligations.DelayWindowSuffices : Prop :=
  ∀ (s : State) (m : Fin 24) (x : List NUM),
    s.blk.md[m].inDelayWindow s.cfg.rbCap[rbOfMd m] x.length → (s.mdProc m x).viol = s.viol

/-! ## Modulated allpasses -/

/-- AP.SETP `a` is exactly MD.SETP `4 + a` on the block, for every operand; with a natural `delaySamples` it sets the four
parameter fields of the owned delay. The place of CV_OWNED (assumption 7) and the clause `Completed` (assumptions 3, 4) are
the model's. -/
def Obligations.ApSetpIsMdSetpOfTheOwnedDelay : Prop :=
  ∀ (s : State) (a : Fin 20), ∃ t u, exec (.apSetp a) s = .next t ∧ exec (.mdSetp (4 + a)) s = .next u ∧
    t.blk = u.blk ∧ Completed s t none [] [] ∧ sameOwners s t ∧
    ∀ d : Nat, s.args.a0.val = d → t.viol = s.viol ++ ownedRecord s.rvRan (.apSetp a) ∧
      t.blk.md[mdOfAp a] = { s.blk.md[mdOfAp a] with
        delaySamples := d, modRate := s.args.a1, modAmount := s.args.a2, interp := decide (s.args.a3.val ≠ 0) } ∧
      (∀ k : Fin 24, k ≠ mdOfAp a → t.blk.md[k] = s.blk.md[k]) ∧ t.blk = { s.blk with md := t.blk.md }

/-- AP.SETFB stores its operand unchecked; the record CV_AP_FB is left exactly when it is outside [0,1). That CV_OWNED stands
before it (assumption 7) and the clause `Completed` (assumptions 3, 4) are the model's. -/
def Obligations.ApSetfbStoresUnchecked : Prop :=
  ∀ (s : State) (a : Fin 20), ∃ t, exec (.apSetfb a) s = .next t ∧
    t.blk.ap[a] = { s.blk.ap[a] with fb := s.args.a0 } ∧ (∀ k : Fin 20, k ≠ a → t.blk.ap[k] = s.blk.ap[k]) ∧
    t.blk = { s.blk with ap := t.blk.ap } ∧ sameOwners s t ∧
    t.viol = s.viol ++ ownedRecord s.rvRan (.apSetfb a) ++
      (if s.args.a0.val < 0 ∨ 1 ≤ s.args.a0.val then [.apFb a s.args.a0] else []) ∧
    Completed s t none [] []

/-- AP.PROC on `l` samples: there is the list `u` of the samples fed into the delay such that sample n is read from the
buffer holding the first n of them, `u[n] = x[n] + g·d`, and the output is `d − g·u[n]` or, for `AP_FORM = LITERAL`,
`d − g·x[n]`; the owned delay's output buffer and all else of the block stay. -/
def Obligations.ApProcReadsThenWrites : Prop :=
  ∀ (s : State) (a : Fin 20) (l : Nat), s.args.a0.val = l → l ≤ s.cfg.blockSize → l ≤ s.args.xin0.length →
    Memory.wf s.cfg.rbCap[rbOfMd (mdOfAp a)] s.blk.rb[rbOfMd (mdOfAp a)].data = true →
    1 ≤ s.cfg.rbCap[rbOfMd (mdOfAp a)] →
    ∃ (t : State) (u pos : List NUM), exec (.apProc a) s = .next t ∧ u.length = l ∧ pos.length = l ∧
      t.blk.rb[rbOfMd (mdOfAp a)] = u.foldl (rbWrite s.cfg (rbOfMd (mdOfAp a))) s.blk.rb[rbOfMd (mdOfAp a)] ∧
      t.blk.rb[rbOfMd (mdOfAp a)].wc = s.blk.rb[rbOfMd (mdOfAp a)].wc + l ∧
      (∀ n < l,
        let d := readValue s.cfg (rbOfMd (mdOfAp a))
          ((u.take n).foldl (rbWrite s.cfg (rbOfMd (mdOfAp a))) s.blk.rb[rbOfMd (mdOfAp a)]) (sampleAt pos n)
        sampleAt pos n =
          readPosition s.blk.md[mdOfAp a] t.blk.md[mdOfAp a].phase.val (s.blk.rb[rbOfMd (mdOfAp a)].wc + n) ∧
        sampleAt u n = sampleAt s.args.xin0 n + s.blk.ap[a].fb.val * d ∧
        sampleAt t.blk.ap[a].out n = d - s.blk.ap[a].fb.val *
          (if s.cfg.apForm = .schroeder then sampleAt u n else sampleAt s.args.xin0 n)) ∧
      (∀ n, l ≤ n → t.blk.ap[a].out[n]? = s.blk.ap[a].out[n]?) ∧
      (∀ j : Nat, j ∉ storedSlots s.cfg.rbCap[rbOfMd (mdOfAp a)] s.blk.rb[rbOfMd (mdOfAp a)].wc l →
        memRead t.blk.rb[rbOfMd (mdOfAp a)] j = memRead s.blk.rb[rbOfMd (mdOfAp a)] j) ∧
      t.blk.md[mdOfAp a].phase.val = Int.fract (s.blk.md[mdOfAp a].phase.val + s.blk.md[mdOfAp a].modRate.val * l) ∧
      t.blk.md[mdOfAp a] = { s.blk.md[mdOfAp a] with phase := t.blk.md[mdOfAp a].phase } ∧
      t.blk.ap[a] = { s.blk.ap[a] with out := t.blk.ap[a].out } ∧
      (∀ k : Fin 20, k ≠ a → t.blk.ap[k] = s.blk.ap[k]) ∧ (∀ k : Fin 24, k ≠ mdOfAp a → t.blk.md[k] = s.blk.md[k]) ∧
      (∀ k : Fin 25, k ≠ rbOfMd (mdOfAp a) → t.blk.rb[k] = s.blk.rb[k]) ∧
      t.blk = { s.blk with rb := t.blk.rb, md := t.blk.md, ap := t.blk.ap } ∧ sameOwners s t ∧
      t.viol = s.viol ++ ownedRecord s.rvRan (.apProc a) ++ (List.range l).flatMap (fun n =>
        rangeRecord s.cfg (rbOfMd (mdOfAp a))
          ((u.take n).foldl (rbWrite s.cfg (rbOfMd (mdOfAp a))) s.blk.rb[rbOfMd (mdOfAp a)]) (pos.getD n (.rat 0))) ∧
      Completed s t none [] []

/-- 42_modulated_allpass.md section 3, fixed delay `D` with `1 ≤ D ≤ N`, a stream through successive AP.PROC from reset, cut into
blocks in any way, any rate and either `interp`: the recurrence `y[t] = −g·x[t] + x[t − D] + g·y[t − D]`, and with
`AP_FORM = LITERAL` `y[t] = −g·x[t] + (1 + g²)·x[t − D] + g·y[t − D]`, terms of negative index being 0. Block boundaries are
invisible: from every state with `modAmount = 0` the blocks give the output of one block. -/
def Obligations.AllpassRecurrence : Prop :=
  (∀ (p : Params) (a : Fin 20) (g : NUM) (d : Nat) (rate depth : NUM) (interp : Bool) (blocks : List (List NUM)) (n : Nat),
    p.quant = .identity → 1 ≤ d → d ≤ p.rbCap[rbOfMd (mdOfAp a)] → depth.val = 0 → n < blocks.flatten.length →
    let x := sampleAt blocks.flatten
    let y := sampleAt (apStream a (fixedAllpass p a d rate depth interp g) blocks)
    y n = -g.val * x n + (if d ≤ n then
      (if p.apForm = .schroeder then 1 else 1 + g.val * g.val) * x (n - d) + g.val * y (n - d) else 0)) ∧
    ∀ (s : State) (a : Fin 20) (blocks : List (List NUM)), s.blk.md[mdOfAp a].modAmount.val = 0 →
      numbers (apStream a s blocks) = numbers ((s.apProc a blocks.flatten).blk.ap[a].out.take blocks.flatten.length)

/-- The impulse response of the allpass with a fixed delay `D`, through successive AP.PROC from reset, cut into blocks in any
way: `−g` at 0 and 0 outside the multiples of `D`; at `k·D` for `k ≥ 1` it is `(1 − g²)·g^(k−1)` for `AP_FORM = SCHROEDER` and
`g^(k−1)` for `AP_FORM = LITERAL`. -/
def Obligations.AllpassImpulseResponse : Prop :=
  ∀ (p : Params) (a : Fin 20) (g : NUM) (d l n : Nat) (rate depth : NUM) (interp : Bool) (blocks : List (List NUM)),
    p.quant = .identity → 1 ≤ d → d ≤ p.rbCap[rbOfMd (mdOfAp a)] → depth.val = 0 →
    numbers blocks.flatten = 1 :: List.replicate l 0 → n ≤ l →
    sampleAt (apStream a (fixedAllpass p a d rate depth interp g) blocks) n =
      if n = 0 then -g.val
      else if d ∣ n then (match p.apForm with | .schroeder => 1 - g.val * g.val | .literal => 1) * g.val ^ (n / d - 1)
      else 0

/-- The sufficient condition of 42_modulated_allpass.md R126: with `delaySamples − abs(modAmount) >= 1` and
`delaySamples + abs(modAmount) <= N`, AP.PROC makes no out-of-window read, at every LFO phase and for any block. -/
def Obligations.AllpassWindowSuffices : Prop :=
  ∀ (s : State) (a : Fin 20) (x : List NUM),
    s.blk.md[mdOfAp a].inAllpassWindow s.cfg.rbCap[rbOfMd (mdOfAp a)] → (s.apProc a x).viol = s.viol

/-! ## Biquad filters -/

/-- 43_biquad.md R131 to R133: BQ.SETTYPE, BQ.SETFREQ and, with a positive rate, BQ.SETFS write one field of their filter;
coefficients, history and all else of the block stay. BQ.SETFS with a rate that is not positive is refused. The record CV_OWNED
(assumption 7), the response to a refused packet (assumptions 4, 5) and the clause `Completed` (assumption 3) are the model's. -/
def Obligations.BqSettersWriteOneField : Prop :=
  ∀ (s : State) (q : Fin 4) (ty : FilterType),
    (∃ t, exec (.bqSettype q ty) s = .next t ∧ t.blk = { s.blk with bq := s.blk.bq.set q { s.blk.bq[q] with type := ty } } ∧
      t.viol = s.viol ++ ownedRecord s.rvRan (.bqSettype q ty) ∧ sameOwners s t ∧ Completed s t none [] []) ∧
    (∃ t, exec (.bqSetfreq q) s = .next t ∧
      t.blk = { s.blk with bq := s.blk.bq.set q { s.blk.bq[q] with freq := s.args.a0 } } ∧
      t.viol = s.viol ++ ownedRecord s.rvRan (.bqSetfreq q) ∧ sameOwners s t ∧ Completed s t none [] []) ∧
    (0 < s.args.a0.val → ∃ t, exec (.bqSetfs q) s = .next t ∧
      t.blk = { s.blk with bq := s.blk.bq.set q { s.blk.bq[q] with fs := s.args.a0 } } ∧
      t.viol = s.viol ++ ownedRecord s.rvRan (.bqSetfs q) ∧ sameOwners s t ∧ Completed s t none [] []) ∧
    (s.args.a0.val ≤ 0 → ∃ t, exec (.bqSetfs q) s = .next t ∧ Refused s t (.operand (.bqSetfs q) .a0 s.args.a0))

/-- BQ.UPDATE writes the coefficients the design gives for type, frequency and rate, and nothing else; the designs are the model's
choice (assumption 8). -/
def Obligations.BqUpdateWritesTheCoefficients : Prop :=
  ∀ (s : State) (q : Fin 4), ∃ t, exec (.bqUpdate q) s = .next t ∧
    t.blk.bq[q] = { s.blk.bq[q] with
      coeffs := designCoeffs s.cfg.design s.blk.bq[q].type s.blk.bq[q].freq s.blk.bq[q].fs } ∧
    (∀ k : Fin 4, k ≠ q → t.blk.bq[k] = s.blk.bq[k]) ∧ t.blk = { s.blk with bq := t.blk.bq } ∧
    t.viol = s.viol ++ ownedRecord s.rvRan (.bqUpdate q) ∧ sameOwners s t ∧ Completed s t none [] []

/-- BQ.PROC on `l` samples: every output satisfies the difference equation over the carried history, the history ends with
the last two inputs and outputs, and nothing else of the block changes. That CV_OWNED stands first (assumption 7) and the clause
`Completed` (assumptions 3, 4) are the model's. -/
def Obligations.BqProcSatisfiesTheDifferenceEquation : Prop :=
  ∀ (s : State) (q : Fin 4) (l : Nat), s.args.a0.val = l → l ≤ s.cfg.blockSize → l ≤ s.args.xin0.length →
    ∃ (t : State) (y : List NUM), exec (.bqProc q) s = .next t ∧ y.length = l ∧
      let f := s.blk.bq[q]
      let x := s.args.xin0.take l
      (∀ n < l, sampleAt y n = f.coeffs.b0.val * sampleAt x n + f.coeffs.b1.val * (delayed f.x1 f.x2 x n 1).val +
        f.coeffs.b2.val * (delayed f.x1 f.x2 x n 2).val - f.coeffs.a1.val * (delayed f.y1 f.y2 y n 1).val -
        f.coeffs.a2.val * (delayed f.y1 f.y2 y n 2).val) ∧
      t.blk.bq[q] = { f with
        x1 := delayed f.x1 f.x2 x l 1, x2 := delayed f.x1 f.x2 x l 2,
        y1 := delayed f.y1 f.y2 y l 1, y2 := delayed f.y1 f.y2 y l 2 } ∧
      (∀ k : Fin 4, k ≠ q → t.blk.bq[k] = s.blk.bq[k]) ∧ t.blk = { s.blk with bq := t.blk.bq } ∧ sameOwners s t ∧
      t.viol = s.viol ++ ownedRecord s.rvRan (.bqProc q) ++
        (if 0 < f.freq.val ∧ f.freq.val ≤ f.fs.val / 2 then [] else [.bqParam q f.freq f.fs]) ∧
      Completed s t none y []

/-- 43_biquad.md R140: a stream filtered in successive blocks of any lengths gives the output of the stream filtered in one
block. -/
def Obligations.FilterBlocksAreInvisible : Prop :=
  ∀ (s : State) (q : Fin 4) (blocks : List (List NUM)), bqStream q s blocks = (s.bqProc q blocks.flatten).2

/-- 43_biquad.md R141: after BQ.SETTYPE, BQ.SETFREQ or BQ.SETFS and before a BQ.UPDATE the filter gives, for every block, the
output it would have given without it; after UpdateAll the coefficients of every filter are those of its own fields. -/
def Obligations.CoefficientsAreStaleUntilUpdate : Prop :=
  (∀ (s t : State) (q k : Fin 4) (ty : FilterType) (x : List NUM),
    exec (.bqSettype k ty) s = .next t ∨ exec (.bqSetfreq k) s = .next t ∨ exec (.bqSetfs k) s = .next t →
    (t.bqProc q x).2 = (s.bqProc q x).2) ∧
    ∀ (s t : State) (q : Fin 4), exec .rvUpdateall s = .next t →
      t.blk.bq[q].coeffs = designCoeffs t.cfg.design t.blk.bq[q].type t.blk.bq[q].freq t.blk.bq[q].fs

/-- A 6 dB type has `b2 = a2 = 0` under every `BQ_DESIGN` the model has (assumption 8),
so its output does not depend on the older history. -/
def Obligations.SixDbTypesAreFirstOrder : Prop :=
  ∀ (d : Design) (f : Biquad) (t : FilterType) (v w : NUM) (x : List NUM), t.isFirstOrder = true →
    let g := ({ f with type := t }).update d
    g.coeffs.b2.val = 0 ∧ g.coeffs.a2.val = 0 ∧ numbers (bqLoop { g with x2 := v, y2 := w } x).2 = numbers (bqLoop g x).2

/-- 43_biquad.md section 4, the default design (assumption 8): LowPass12 at `f = fs/2` has the coefficients (1, 2, 1, 2, 1) and reproduces
every input exactly from a zero history. -/
def Obligations.NyquistLowPassIsTheIdentity : Prop :=
  ∀ (f : Biquad) (x : List NUM), 0 < f.fs.val → f.type = .lowPass12 → f.freq.val = f.fs.val / 2 →
    f.x1.val = 0 → f.x2.val = 0 → f.y1.val = 0 → f.y2.val = 0 →
    let c := (f.update .default).coeffs
    [c.b0, c.b1, c.b2, c.a1, c.a2].map NUM.val = [1, 2, 1, 2, 1] ∧
      numbers (bqLoop (f.update .default) x).2 = numbers x

/-- The default design of 43_biquad.md section 3 (assumption 8), with `w = 2·PI·f/fs`, `Q = 1/sqrt(2)`, `alpha = sin(w)/(2·Q)`,
`a0 = 1 + alpha` and `p = exp(−2·PI·f/fs)`, for every frequency and every positive rate: the twenty coefficients, `a0 > 0`, and
what the section says of gains: a low-pass has gain 1 at DC (`b0 + b1 + b2 = 1 + a1 + a2`), a high-pass has gain 0 there and gain 1
at `fs/2` (`b0 − b1 + b2 = 1 − a1 + a2`), and the pole of the 6 dB types lies in (0,1) for a positive frequency. -/
def Obligations.DefaultDesignIsTheFormula : Prop :=
  ∀ f fs : NUM, 0 < fs.val →
    let w := 2 * Real.pi * (f.val / fs.val)
    let alpha := Real.sin w / (2 * (1 / √2))
    let a0 := 1 + alpha
    let p := Real.exp (-(2 * Real.pi * (f.val / fs.val)))
    let values := fun t : FilterType =>
      let c := designCoeffs .default t f fs
      [c.b0.val, c.b1.val, c.b2.val, c.a1.val, c.a2.val]
    0 < a0 ∧
      values .lowPass12 = [(1 - Real.cos w) / 2 / a0, (1 - Real.cos w) / a0, (1 - Real.cos w) / 2 / a0,
        -2 * Real.cos w / a0, (1 - alpha) / a0] ∧
      values .highPass12 = [(1 + Real.cos w) / 2 / a0, -(1 + Real.cos w) / a0, (1 + Real.cos w) / 2 / a0,
        -2 * Real.cos w / a0, (1 - alpha) / a0] ∧
      values .lowPass6 = [1 - p, 0, 0, -p, 0] ∧ values .highPass6 = [(1 + p) / 2, -(1 + p) / 2, 0, -p, 0] ∧
      (∀ t : FilterType, let c := designCoeffs .default t f fs
        (t = .lowPass12 ∨ t = .lowPass6 → c.b0.val + c.b1.val + c.b2.val = 1 + c.a1.val + c.a2.val) ∧
        (t = .highPass12 ∨ t = .highPass6 → c.b0.val + c.b1.val + c.b2.val = 0 ∧
          c.b0.val - c.b1.val + c.b2.val = 1 - c.a1.val + c.a2.val)) ∧
      (0 < f.val → 0 < p ∧ p < 1)

/-! ## Reverb engine: parameters -/

/-- 44_reverb_engine.md R154, all thirteen RV.SETPARAM operations: a value in the defined domain is stored as given in its own
register, and the block is then exactly as RV.UPDATEALL would leave it; any other value is refused. The response to a refused
packet (assumptions 4, 5), the log as a list (assumption 6) and the clause `Completed` (assumption 3) are the model's. -/
def Obligations.SetparamStoresThenUpdatesAll : Prop :=
  ∀ (s : State) (id : ParamId),
    (definedDomain id s.args.a0 → ∃ t u, exec (Packet.setparamInstr id) s = .next t ∧
      exec .rvUpdateall { s with blk := { s.blk with rv := { s.blk.rv with p := s.blk.rv.p.set id.idx s.args.a0 } } } =
        .next u ∧
      t.blk = u.blk ∧ t.viol = u.viol ∧ t.param id = s.args.a0 ∧ (∀ k : ParamId, k ≠ id → t.param k = s.param k) ∧
      sameOwners s t ∧ Completed s t none [] []) ∧
    (¬ definedDomain id s.args.a0 → ∃ t, exec (Packet.setparamInstr id) s = .next t ∧
      Refused s t (.operand (Packet.setparamInstr id) .a0 s.args.a0))

/-- RV.UPDATEALL, the whole mapping of 44_reverb_engine.md section 3, and what it does not touch. `Krt` is said for a SizeLate
that is not negative, its defined domain. The designs are the model's choice (assumption 8). -/
def Obligations.UpdateAllMapsTheParameters : Prop :=
  ∀ s : State, ∃ t, exec .rvUpdateall s = .next t ∧
    t.blk.rv = { s.blk.rv with
      krt := t.blk.rv.krt, tankFb := t.blk.rv.tankFb, wet := t.blk.rv.wet, dry := t.blk.rv.dry } ∧
    (0 ≤ (s.param .sizeLate).val → t.blk.rv.krt.val =
      (10 : ℝ) ^ (-3 * (15 / 100 * √(s.param .sizeLate).val) / max (s.param .decay).val (1 / 10))) ∧
    t.blk.rv.tankFb.val = 1 / 2 + (1 - (s.param .diffuse).val) * (49 / 100) ∧
    t.blk.rv.wet.val = max 0 (min 1 ((s.param .mix).val * 2)) ∧
    t.blk.rv.dry.val = max 0 (min 1 (2 - (s.param .mix).val * 2)) ∧
    (∀ j : Fin 12, DelaySet s.blk.md[4 + j.val] t.blk.md[4 + j.val] (s.cfg.preLen[j].val * (s.param .sizeEarly).val)
      s.cfg.preRate[j] ((s.param .modulate).val * 25) (s.param .interpolation)) ∧
    (∀ j : Fin 8, DelaySet s.blk.md[16 + j.val] t.blk.md[16 + j.val]
      (s.cfg.tankApLen[j].val * (1 / 5 + (s.param .sizeLate).val * (4 / 5)))
      s.cfg.tankApRate[j] ((s.param .modulate).val * 25) (s.param .interpolation)) ∧
    (∀ j : Fin 4, DelaySet s.blk.md[j.val] t.blk.md[j.val] (s.cfg.tankDlyLen[j].val * (s.param .sizeLate).val)
      s.cfg.tankDlyRate[j] ((s.param .modulate).val * (if j = 0 then 200 else 25)) (s.param .interpolation)) ∧
    (∀ j : Fin 12, t.blk.ap[j.val] = { s.blk.ap[j.val] with fb := s.cfg.preFb[j] }) ∧
    (∀ j : Fin 8, t.blk.ap[12 + j.val] = { s.blk.ap[12 + j.val] with fb := t.blk.rv.tankFb }) ∧
    (∀ q : Fin 4, t.blk.bq[q] = ({ s.blk.bq[q] with
      freq := s.param ((#v[.highCutPre, .lowCutPre, .highCutPost, .lowCutPost] : Vector ParamId 4)[q]) }).update
        s.cfg.design) ∧
    t.blk.rb = s.blk.rb ∧ t.blk.gp = s.blk.gp ∧ sameOwners s t ∧
    t.viol = s.viol ++ (List.finRange 20).flatMap (fun a : Fin 20 =>
      if t.blk.ap[a].fb.val < 0 ∨ 1 ≤ t.blk.ap[a].fb.val then [Viol.apFb a t.blk.ap[a].fb] else []) ∧
    Completed s t none [] []

/-- RV.UPDATEALL is idempotent on the block. -/
def Obligations.UpdateAllIsIdempotent : Prop :=
  ∀ s t u : State, exec .rvUpdateall s = .next t → exec .rvUpdateall t = .next u → u.blk = t.blk

/-- 44_reverb_engine.md R162, RV.SETPARAM Mix: the two gains for every value, `clip(v·2, 0, 1)` and `clip(2 − v·2, 0, 1)`. -/
def Obligations.MixGivesWetAndDry : Prop :=
  ∀ s : State, ∃ t, exec .rvSetMix s = .next t ∧ t.param .mix = s.args.a0 ∧
    t.blk.rv.wet.val = (if s.args.a0.val ≤ 0 then 0 else if s.args.a0.val ≤ 1 / 2 then 2 * s.args.a0.val else 1) ∧
    t.blk.rv.dry.val = (if s.args.a0.val ≤ 1 / 2 then 1 else if s.args.a0.val ≤ 1 then 2 - 2 * s.args.a0.val else 0)

/-- 44_reverb_engine.md R158, RV.SETPARAM Diffuse: the eight tank diffusers get `0.5 + (1 − v)·0.49`, which lies in [0.5, 0.99]
for v in [0,1], is 0.99 at
0 and 0.5 at 1; below −1/49 it is at least 1 and recorded for every one of them, above 99/49 it is negative. -/
def Obligations.DiffuseGivesTheTankFeedback : Prop :=
  ∀ s : State, ∃ t, exec .rvSetDiffuse s = .next t ∧ let v := s.args.a0.val
    let fb := t.blk.rv.tankFb.val
    (∀ j : Fin 8, t.blk.ap[12 + j.val].fb = t.blk.rv.tankFb) ∧ fb = 1 / 2 + (1 - v) * (49 / 100) ∧
    (0 ≤ v → v ≤ 1 → 1 / 2 ≤ fb ∧ fb ≤ 99 / 100) ∧ (v = 0 → fb = 99 / 100) ∧ (v = 1 → fb = 1 / 2) ∧
    (v = 1 / 2 → fb = 745 / 1000) ∧
    (v ≤ -1 / 49 → 1 ≤ fb ∧ ∀ j : Fin 8, Viol.apFb (12 + j.val) t.blk.rv.tankFb ∈ t.viol) ∧ (99 / 49 < v → fb < 0)

/-- The loop gain of 44_reverb_engine.md section 3 (R155, R169), for every Decay and every SizeLate that is not negative, with
`rt = 0.15·sqrt(SizeLate)` and `T60 = max(Decay, 0.1)`: `Krt = 10^(−3·rt/T60)`, which is the source's `10^((−60/(T60/rt))/20)` where
`rt > 0`; `0 < Krt <= 1`; `Krt < 1` whenever SizeLate is positive and `Krt = 1` at 0; `k` round trips with `k·rt = T60` leave a
thousandth, −60 dB; and `Krt = 1/10` at Decay 0.45, SizeLate 1. -/
def Obligations.LoopGainLaw : Prop :=
  ∀ decay size : NUM, 0 ≤ size.val →
    let rt := 15 / 100 * √size.val
    let t60 := max decay.val (1 / 10)
    let krt := (loopGain decay size).val
    krt = (10 : ℝ) ^ (-3 * rt / t60) ∧ (0 < rt → krt = (10 : ℝ) ^ ((-60 / (t60 / rt)) / 20)) ∧ 0 < krt ∧ krt ≤ 1 ∧
      (0 < size.val → krt < 1) ∧ (size.val = 0 → krt = 1) ∧ (∀ k : Nat, k * rt = t60 → krt ^ k = 1 / 1000) ∧
      (decay.val = 45 / 100 → size.val = 1 → krt = 1 / 10)

/-! ## Reverb engine: processing -/

/-- RV.PROC runs whenever its block size is `B`, both blocks are there and EarlyStages is an integer from 1 to 12, and writes
only what 44_reverb_engine.md R184 lists: every one of `RB[0..23]` gets `B` samples, every phase advances once, and the parameters,
the derived gains, the delay parameters, the feedbacks, the coefficients, the output buffers of the allpasses' own delays, the
pitch shifter and `RB[24]` stay. -/
def Obligations.RvProcWritesOnlyWhatItLists : Prop :=
  ∀ (s : State) (stage : Fin 12), s.shape → s.memoryCanonical → EngineReady s stage →
    ∃ t, exec .rvProc s = .next t ∧
      t.blk.rv = { s.blk.rv with
        smoothedFreeze := t.blk.rv.smoothedFreeze, activeKrt := t.blk.rv.activeKrt, prev := t.blk.rv.prev
        mono := t.blk.rv.mono, tankIn := t.blk.rv.tankIn } ∧
      (∀ m : Fin 24, t.blk.md[m] = { s.blk.md[m] with phase := t.blk.md[m].phase, out := t.blk.md[m].out } ∧
        t.blk.md[m].phase.val = Int.fract (s.blk.md[m].phase.val + s.blk.md[m].modRate.val * s.cfg.blockSize)) ∧
      (∀ a : Fin 20, t.blk.md[mdOfAp a].out = s.blk.md[mdOfAp a].out ∧
        t.blk.ap[a] = { s.blk.ap[a] with out := t.blk.ap[a].out }) ∧
      (∀ q : Fin 4, t.blk.bq[q] = { s.blk.bq[q] with
        x1 := t.blk.bq[q].x1, x2 := t.blk.bq[q].x2, y1 := t.blk.bq[q].y1, y2 := t.blk.bq[q].y2 }) ∧
      (∀ m : Fin 24, t.blk.rb[rbOfMd m].wc = s.blk.rb[rbOfMd m].wc + s.cfg.blockSize ∧
        ∀ j : Nat, j ∉ storedSlots s.cfg.rbCap[rbOfMd m] s.blk.rb[rbOfMd m].wc s.cfg.blockSize →
          memRead t.blk.rb[rbOfMd m] j = memRead s.blk.rb[rbOfMd m] j) ∧
      t.blk.rb[24] = s.blk.rb[24] ∧ t.blk.gp = s.blk.gp ∧ t.rvRan = true ∧ t.gpRan = s.gpRan ∧ t.shape ∧
      (∃ vs, t.viol = s.viol ++ vs) ∧ Completed s t none [] []

/-- One RV.PROC from its inputs to the tank and back to its output (44_reverb_engine.md section 4, steps 0 to 4 and 6): the freeze
smoother moves one step toward the flag and gives the gain of the block; the plain sum of the two inputs goes through `BQ[0]` and
then `BQ[1]`; the result goes through all twelve pre-diffusers in series; the tank input is half the output of the tapped stage;
each output is the wet sum of two lane outputs of this block plus the dry input. -/
def Obligations.RvProcSmoothsTapsAndMixes : Prop :=
  ∀ (s t : State) (stage : Fin 12), s.shape → EngineReady s stage → exec .rvProc s = .next t →
    t.blk.rv.smoothedFreeze.val =
      s.blk.rv.smoothedFreeze.val * (95 / 100) + (if (s.param .freeze).val ≠ 0 then 1 else 0) * (5 / 100) ∧
    t.blk.rv.activeKrt.val =
      t.blk.rv.smoothedFreeze.val + (1 - t.blk.rv.smoothedFreeze.val) * s.blk.rv.krt.val ∧
    (∃ m : List NUM, m.length = s.cfg.blockSize ∧
      (∀ n < s.cfg.blockSize, sampleAt m n = sampleAt s.args.xin0 n + sampleAt s.args.xin1 n) ∧
      let low := bqLoop s.blk.bq[0] m
      let high := bqLoop s.blk.bq[1] low.2
      t.blk.bq[0] = low.1 ∧ t.blk.bq[1] = high.1 ∧ t.blk.rv.mono = high.2) ∧
    AllpassRan s t 0 t.blk.rv.mono ∧
    (∀ j : Fin 11, AllpassRan s t ⟨j.val + 1, by omega⟩ t.blk.ap[j.val].out) ∧
    (∀ n < s.cfg.blockSize, sampleAt t.blk.rv.tankIn n = 1 / 2 * sampleAt t.blk.ap[stage.val].out n) ∧
    ∃ a : Response, t.outbox = s.outbox ++ [a] ∧ ∀ n < s.cfg.blockSize,
      sampleAt a.xout0 n = s.blk.rv.wet.val * (sampleAt t.blk.md[0].out n + sampleAt t.blk.md[2].out n) +
        s.blk.rv.dry.val * sampleAt s.args.xin0 n ∧
      sampleAt a.xout1 n = s.blk.rv.wet.val * (sampleAt t.blk.md[1].out n + sampleAt t.blk.md[3].out n) +
        s.blk.rv.dry.val * sampleAt s.args.xin1 n

/-- The lanes of one RV.PROC (44_reverb_engine.md section 4, steps 5a and 5b): lane `i` mixes the tank input with the gain times the
output the lane before it held BEFORE this operation, so that no lane sees another lane's output of the same block; lane 0 alone
passes that through `BQ[2]` and then `BQ[3]`; then two diffusers in series, then the lane's delay. -/
def Obligations.LanesReadThePreviousBlock : Prop :=
  ∀ (s t : State) (stage : Fin 12), s.shape → EngineReady s stage → exec .rvProc s = .next t → ∀ i : Fin 4,
    t.blk.rv.prev[i] = s.blk.md[i.val].out ∧
    ∃ x : List NUM, x.length = s.cfg.blockSize ∧
      (∀ n < s.cfg.blockSize, sampleAt x n =
        sampleAt t.blk.rv.tankIn n + t.blk.rv.activeKrt.val * sampleAt s.blk.md[(i.val + 3) % 4].out n) ∧
      let low := bqLoop s.blk.bq[2] x
      let high := bqLoop s.blk.bq[3] low.2
      (i = 0 → t.blk.bq[2] = low.1 ∧ t.blk.bq[3] = high.1) ∧
      AllpassRan s t ⟨12 + 2 * i.val, by omega⟩ (if i = 0 then high.2 else x) ∧
      AllpassRan s t ⟨13 + 2 * i.val, by omega⟩ t.blk.ap[12 + 2 * i.val].out ∧
      DelayRan s t ⟨i.val, by omega⟩ t.blk.ap[13 + 2 * i.val].out

/-- RV.PROC with EarlyStages no integer from 1 to 12 is refused with CV_RV_PARAM, its operands being legal; with an ill-typed
block size it is refused with CV_OPERAND alone, whatever EarlyStages is (60_exceptions.md R215). -/
def Obligations.RvProcRefusals : Prop :=
  (∀ s : State, s.args.a0.val = s.cfg.blockSize → s.cfg.blockSize ≤ s.args.xin0.length → s.cfg.blockSize ≤ s.args.xin1.length →
      (∀ n : Nat, 1 ≤ n → n ≤ 12 → (s.param .earlyStages).val ≠ n) →
      ∃ t, exec .rvProc s = .next t ∧ Refused s t (.rvParam (s.param .earlyStages))) ∧
    ∀ s : State, s.args.a0.val ≠ s.cfg.blockSize →
      ∃ t, exec .rvProc s = .next t ∧ Refused s t (.operand .rvProc .a0 s.args.a0)

/-- 44_reverb_engine.md R172: with Freeze held, k steps of the smoother from 0 give `1 − 0.95^k`; without it k steps from any
value give that value times `0.95^k`; the gain stays between `Krt` and 1. -/
def Obligations.FreezeSmootherLaw : Prop :=
  (∀ (s : State) (k : Nat), (s.param .freeze).val ≠ 0 → s.blk.rv.smoothedFreeze.val = 0 →
      (State.smoothFreeze^[k] s).blk.rv.smoothedFreeze.val = 1 - (95 / 100) ^ k) ∧
    (∀ (s : State) (k : Nat), (s.param .freeze).val = 0 →
      (State.smoothFreeze^[k] s).blk.rv.smoothedFreeze.val = s.blk.rv.smoothedFreeze.val * (95 / 100) ^ k) ∧
    ∀ s : State, 0 ≤ s.blk.rv.smoothedFreeze.val → s.blk.rv.smoothedFreeze.val < 1 → s.blk.rv.krt.val < 1 →
      s.blk.rv.krt.val ≤ s.smoothFreeze.blk.rv.activeKrt.val ∧ s.smoothFreeze.blk.rv.activeKrt.val < 1

/-- 44_reverb_engine.md R183: from a state in which every stored sample, output buffer and filter history is 0, RV.PROC with
all-zero inputs gives all-zero outputs and leaves those values 0, when `Qs` is the identity. -/
def Obligations.SilenceInSilenceOut : Prop :=
  ∀ (s : State) (stage : Fin 12), s.shape → s.cfg.quant = .identity → EngineReady s stage → Silent s.blk →
    (∀ v ∈ s.args.xin0, v.val = 0) → (∀ v ∈ s.args.xin1, v.val = 0) →
    ∃ (t : State) (l r : List NUM), exec .rvProc s = .next t ∧ Silent t.blk ∧ Completed s t none l r ∧
      numbers l = List.replicate s.cfg.blockSize 0 ∧ numbers r = List.replicate s.cfg.blockSize 0

/-- 44_reverb_engine.md R181: the engine never reads or writes the pitch shifter or `RB[24]`: whatever they hold, one RV.PROC gives the
same responses, the same records and the same rest of the block. -/
def Obligations.EngineIgnoresThePitchShifter : Prop :=
  ∀ (s t : State) (b : RingBuf) (g : Shifter), exec .rvProc s = .next t →
    exec .rvProc ((s.setRb 24 b).setGp g) = .next ((t.setRb 24 b).setGp g)

/-! ## Granular pitch shifter -/

/-- GP.SETSPEED stores its operand unchecked, with a record when it is not positive, and leaves the running grains alone; GP.SEED
with a natural seed restarts the generator (in the model's representation, assumption 9) and changes nothing else. -/
def Obligations.GpSettersWriteOneRegister : Prop :=
  (∀ s : State, ∃ t, exec .gpSetspeed s = .next t ∧
      t.blk = { s.blk with gp := { s.blk.gp with speed := s.args.a0 } } ∧ sameOwners s t ∧
      t.viol = s.viol ++ (if s.args.a0.val ≤ 0 then [.gpRange s.args.a0] else []) ∧ Completed s t none [] []) ∧
    ∀ (s : State) (k : Nat), s.args.a0.val = k → ∃ t, exec .gpSeed s = .next t ∧
      t.blk = { s.blk with gp := { s.blk.gp with rng := ⟨k, 0⟩ } } ∧ sameOwners s t ∧ t.viol = s.viol ∧
      Completed s t none [] []

/-- GP.PROC on `l` samples: `RB[24]` gets the block, the pool keeps its size and its speed register, every draw is one of a pair, an
output of `l` samples is sent, and the rest of the block stays. That the generator's state is its seed and a count of draws is
the model's (assumption 9). -/
def Obligations.GpProcWritesOnlyTheShifter : Prop :=
  ∀ (s : State) (l : Nat), s.args.a0.val = l → l ≤ s.cfg.blockSize → l ≤ s.args.xin0.length →
    Memory.wf s.cfg.rbCap[24] s.blk.rb[24].data = true → 1 ≤ s.cfg.rbCap[24] →
    ∃ (t : State) (y : List NUM), exec .gpProc s = .next t ∧ y.length = l ∧
      t.blk.rb[24] = (s.args.xin0.take l).foldl (rbWrite s.cfg 24) s.blk.rb[24] ∧
      t.blk.rb[24].wc = s.blk.rb[24].wc + l ∧
      (∀ j : Nat, j ∉ storedSlots s.cfg.rbCap[24] s.blk.rb[24].wc l → memRead t.blk.rb[24] j = memRead s.blk.rb[24] j) ∧
      (∀ k : Fin 25, k ≠ 24 → t.blk.rb[k] = s.blk.rb[k]) ∧ t.blk.gp.speed = s.blk.gp.speed ∧
      t.blk.gp.rng.seed = s.blk.gp.rng.seed ∧ (∃ k : Nat, t.blk.gp.rng.drawn = s.blk.gp.rng.drawn + 2 * k) ∧
      t.blk.gp.grains.length = s.blk.gp.grains.length ∧ t.blk = { s.blk with rb := t.blk.rb, gp := t.blk.gp } ∧
      t.gpRan = true ∧ t.rvRan = s.rvRan ∧ (∃ vs, t.viol = s.viol ++ vs ∧ ∀ v ∈ vs, ∃ pos, v = .rbRange 24 pos) ∧
      Completed s t none y []

/-- GP.PROC on a block of any length `l` (45_granular.md section 2): every grain `i` has a course `g i 0, …, g i l` through the
block, beginning with the pool's grain and ending in the grain it becomes; with each sample it advances, or is reseeded from index
`n + 1` on with the generator as the draws before left it. The generator runs grain by grain: grain `i + 1` starts with what
grain `i` left after the whole block. Output sample `n` is the sum over the grains of the read at the position before the advance
times the envelope there, scaled by `1/sqrt(NG/2)`; the records are those of these reads, grain by grain. The generator's state
is the model's (assumption 9). -/
def Obligations.GpProcPlaysEveryGrain : Prop :=
  ∀ (s : State) (l : Nat), s.args.a0.val = l → l ≤ s.cfg.blockSize → l ≤ s.args.xin0.length →
    ∃ (t : State) (y : List NUM) (g : Nat → Nat → Grain) (r : Nat → Nat → Rng),
      exec .gpProc s = .next t ∧ Completed s t none y [] ∧ y.length = l ∧
      t.blk.rb[24] = (s.args.xin0.take l).foldl (rbWrite s.cfg 24) s.blk.rb[24] ∧
      r 0 0 = s.blk.gp.rng ∧ t.blk.gp.rng = r s.blk.gp.grains.length 0 ∧
      t.blk.gp.grains.length = s.blk.gp.grains.length ∧
      (∀ i < s.blk.gp.grains.length, s.blk.gp.grains[i]? = some (g i 0) ∧ t.blk.gp.grains[i]? = some (g i l) ∧
        r (i + 1) 0 = r i l ∧
        ∀ n < l, GrainStep s.cfg s.blk.gp.speed s.blk.rb[24].wc n (g i n) (g i (n + 1)) (r i n) (r i (n + 1))) ∧
      (∀ n < l, sampleAt y n = ((List.range s.blk.gp.grains.length).map fun i =>
        readValue s.cfg 24 t.blk.rb[24] (g i n).pos.val *
          envelope (((g i n).pos.val - (g i n).start.val) / (g i n).len.val)).sum * (1 / √(s.cfg.numGrains / 2))) ∧
      t.viol = s.viol ++ (List.range s.blk.gp.grains.length).flatMap fun i =>
        (List.range l).flatMap fun n => rangeRecord s.cfg 24 t.blk.rb[24] (g i n).pos

/-- 45_granular.md R195, the envelope: the blend is `(1 − tri)·tri² + tri·(1 − (1 − tri)²) = 3·tri² − 2·tri³`, it lies in [0,1] for u
in [0,1], two halves add up to 1, and the nine listed values. -/
def Obligations.WindowLaw : Prop :=
  (∀ u : NUM, (window u).val = envelope u.val ∧
      envelope u.val = 3 * (1 - |2 * u.val - 1|) ^ 2 - 2 * (1 - |2 * u.val - 1|) ^ 3) ∧
    (∀ u : NUM, 0 ≤ u.val → u.val ≤ 1 → 0 ≤ (window u).val ∧ (window u).val ≤ 1) ∧
    (∀ u v : NUM, 0 ≤ u.val → u.val ≤ 1 / 2 → v.val = u.val + 1 / 2 → (window u).val + (window v).val = 1) ∧
    numbers (([0, 1 / 8, 1 / 4, 3 / 8, 1 / 2, 5 / 8, 3 / 4, 7 / 8, 1] : List ℚ).map fun q => window (.rat q)) =
      [0, 5 / 32, 1 / 2, 27 / 32, 1, 27 / 32, 1 / 2, 5 / 32, 0]

/-- 45_granular.md R196, a reseed: two draws, the jitter first; the start lies from `K0 + npr − G` up to less than 300 beyond it, the
length from `G` up to less than `2·G`, and the grain starts at its own beginning with the register's speed. -/
def Obligations.ReseedPlacesTheGrain : Prop :=
  ∀ (p : Params) (speed : NUM) (k0 npr : Nat) (r : Rng), 0 < p.grainLen.val →
    let g := (reseed p speed k0 npr r).1
    let first := rand p.rng r
    let second := rand p.rng first.2
    let u1 := first.1.val
    let u2 := second.1.val
    let len := p.grainLen.val
    (reseed p speed k0 npr r).2 = second.2 ∧ 0 ≤ u1 ∧ u1 < 1 ∧ 0 ≤ u2 ∧ u2 < 1 ∧
      g.start.val = k0 + npr - len + 300 * u1 ∧ g.len.val = len * (1 + u2) ∧
      len ≤ g.len.val ∧ g.len.val < 2 * len ∧ g.pos = g.start ∧ g.speed = speed ∧ g.active = true

/-! ## Whole-machine rules -/

/-- An ill-typed operand (30_encoding.md R88, 43_biquad.md R133, 44_reverb_engine.md R154, R163) is refused by every operation that has
one: the block keeps its state and the one record is CV_OPERAND with the operation, the slot and the value. -/
def Obligations.IllTypedOperandsAreRefused : Prop :=
  ∀ (s : State) (i : Instr), illTyped s i → ∃ t, exec i s = .next t ∧ Refused s t (.operand i .a0 s.args.a0)

/-- The columns "written by" and "computed by" of 10_state.md R22 to R30: a register changes only in an operation that its row
names, the engine's RV.PROC and RV.UPDATEALL standing for the unit operations they contain. Every field of the block has its
clause. -/
def Obligations.RegistersAreWrittenOnlyByTheirOperations : Prop :=
  ∀ (i : Instr) (s t : State), exec i s = .next t →
    (∀ r : Fin 25, t.blk.rb[r] ≠ s.blk.rb[r] → i = .rbWrite r ∨ (∃ m : Fin 24, rbOfMd m = r ∧ runsDelay i m) ∨
      i = .gpProc ∧ r = 24) ∧
    (∀ m : Fin 24,
      (t.blk.md[m].delaySamples ≠ s.blk.md[m].delaySamples → setsDelay i m) ∧
      (t.blk.md[m].modRate ≠ s.blk.md[m].modRate → setsDelay i m) ∧
      (t.blk.md[m].modAmount ≠ s.blk.md[m].modAmount → setsDelay i m) ∧
      (t.blk.md[m].interp ≠ s.blk.md[m].interp → setsDelay i m) ∧
      (t.blk.md[m].phase ≠ s.blk.md[m].phase → runsDelay i m) ∧
      (t.blk.md[m].out ≠ s.blk.md[m].out → i = .mdProc m ∨ i = .rvProc ∧ m.val < 4)) ∧
    (∀ a : Fin 20,
      (t.blk.ap[a].fb ≠ s.blk.ap[a].fb → i = .apSetfb a ∨ updates i) ∧
      (t.blk.ap[a].out ≠ s.blk.ap[a].out → i = .apProc a ∨ i = .rvProc)) ∧
    (∀ q : Fin 4,
      (t.blk.bq[q].type ≠ s.blk.bq[q].type → ∃ ty, i = .bqSettype q ty) ∧
      (t.blk.bq[q].freq ≠ s.blk.bq[q].freq → i = .bqSetfreq q ∨ updates i) ∧
      (t.blk.bq[q].fs ≠ s.blk.bq[q].fs → i = .bqSetfs q) ∧
      (t.blk.bq[q].coeffs ≠ s.blk.bq[q].coeffs → i = .bqUpdate q ∨ updates i) ∧
      (t.blk.bq[q].x1 ≠ s.blk.bq[q].x1 → i = .bqProc q ∨ i = .rvProc) ∧
      (t.blk.bq[q].x2 ≠ s.blk.bq[q].x2 → i = .bqProc q ∨ i = .rvProc) ∧
      (t.blk.bq[q].y1 ≠ s.blk.bq[q].y1 → i = .bqProc q ∨ i = .rvProc) ∧
      (t.blk.bq[q].y2 ≠ s.blk.bq[q].y2 → i = .bqProc q ∨ i = .rvProc)) ∧
    (t.blk.gp.speed ≠ s.blk.gp.speed → i = .gpSetspeed) ∧ (t.blk.gp.grains ≠ s.blk.gp.grains → i = .gpProc) ∧
    (t.blk.gp.rng ≠ s.blk.gp.rng → i = .gpSeed ∨ i = .gpProc) ∧
    (∀ k : ParamId, t.param k ≠ s.param k → i = Packet.setparamInstr k) ∧
    (t.blk.rv.krt ≠ s.blk.rv.krt → updates i) ∧ (t.blk.rv.tankFb ≠ s.blk.rv.tankFb → updates i) ∧
    (t.blk.rv.wet ≠ s.blk.rv.wet → updates i) ∧ (t.blk.rv.dry ≠ s.blk.rv.dry → updates i) ∧
    (t.blk.rv.smoothedFreeze ≠ s.blk.rv.smoothedFreeze → i = .rvProc) ∧
    (t.blk.rv.activeKrt ≠ s.blk.rv.activeKrt → i = .rvProc) ∧ (t.blk.rv.prev ≠ s.blk.rv.prev → i = .rvProc) ∧
    (t.blk.rv.mono ≠ s.blk.rv.mono → i = .rvProc) ∧ (t.blk.rv.tankIn ≠ s.blk.rv.tankIn → i = .rvProc)

/-- Every step keeps every storage in its canonical form, the model's choice of representation (assumption 13). -/
def Obligations.StepKeepsMemoryCanonical : Prop :=
  ∀ s t : State, s.memoryCanonical → step s = .next t → t.memoryCanonical

/-- Every step keeps the shape of the state: buffers of `B` samples, a pool of NG grains, responses with blocks of `B` samples. -/
def Obligations.StepKeepsTheShape : Prop := ∀ s t : State, s.shape → step s = .next t → t.shape

/-- Every step keeps the registers in the ranges the rules give them. -/
def Obligations.StepKeepsTheRanges : Prop := ∀ s t : State, s.ranges → step s = .next t → t.ranges

/-- For every construction within the constraints of 00_scope.md R9 the state after reset has all three invariants and no recorded
violation. -/
def Obligations.ResetHasTheInvariants : Prop :=
  ∀ p : Params, p.valid = true →
    (State.resetWith p).memoryCanonical ∧ (State.resetWith p).shape ∧ (State.resetWith p).ranges ∧
      (State.resetWith p).clean

/-- The reset table 10_state.md R40, for every construction; `GP.rng` is what GP.SEED 0 gives. -/
def Obligations.ResetValues : Prop :=
  ∀ p : Params, let b := (State.resetWith p).blk
    let z : NUM := .rat 0
    let zeros := List.replicate p.blockSize z
    (∀ r : Fin 25, b.rb[r].wc = 0 ∧ ∀ j : Nat, memRead b.rb[r] j = z) ∧
    (∀ m : Fin 24, b.md[m] = ⟨0, z, z, false, z, zeros⟩) ∧ (∀ a : Fin 20, b.ap[a] = ⟨z, zeros⟩) ∧
    (∀ q : Fin 4, b.bq[q] = ⟨p.bqTypeInit[q], z, p.sampleRate, ⟨z, z, z, z, z⟩, z, z, z, z⟩) ∧
    b.gp.speed = .rat 1 ∧ (∀ s t : State, s.args.a0.val = 0 → exec .gpSeed s = .next t → b.gp.rng = t.blk.gp.rng) ∧
    b.gp.grains.length = p.numGrains ∧
    (∀ i < p.numGrains, ∃ g : Grain, b.gp.grains[i]? = some g ∧
      g.start.val = -p.grainLen.val - i * p.grainLen.val / p.numGrains ∧ g.len = p.grainLen ∧ g.speed = .rat 1 ∧
      g.pos.val = -p.grainLen.val ∧ g.active = true) ∧
    (∀ id : ParamId, (State.resetWith p).param id = z) ∧ b.rv.krt = z ∧ b.rv.tankFb = z ∧ b.rv.wet = z ∧ b.rv.dry = z ∧
    b.rv.smoothedFreeze = z ∧ b.rv.activeKrt = z ∧ (∀ i : Fin 4, b.rv.prev[i] = zeros) ∧ b.rv.mono = zeros ∧
    b.rv.tankIn = zeros ∧ (State.resetWith p).viol = []

/-! ## The arithmetic -/

/-- The arithmetic is that of the real numbers (00_scope.md R11, R13; 46_arithmetic_and_control.md section 2): the identities that
no approximation of the real functions has. The square of a root is the number, of `1/sqrt(2)` and of `sqrt(3)` and of every other
one; `sin² + cos² = 1` with the sine odd about half a turn; `10^a·10^b = 10^(a+b)`, and `10^(1/2)` is `sqrt(10)`, as the
comparison of the machine itself finds; `exp(−2·PI·a)` turns sums into products. -/
def Obligations.RealFunctionsAreExact : Prop :=
  (∀ a : NUM, 0 ≤ a.val → (a.sqrt.mul a.sqrt).val = a.val ∧ 0 ≤ a.sqrt.val ∧ (a.sqrt.mul a.sqrt).same a = true) ∧
    (∀ t u : NUM, u.val = t.val + 1 / 2 →
      ((t.sinTurns.mul t.sinTurns).add (t.cosTurns.mul t.cosTurns)).same (.rat 1) = true ∧
      u.sinTurns.same t.sinTurns.neg = true ∧ u.cosTurns.same t.cosTurns.neg = true) ∧
    (∀ a b : NUM, (a.pow10.mul b.pow10).same (a.add b).pow10 = true ∧
      (a.expNegTurns.mul b.expNegTurns).same (a.add b).expNegTurns = true) ∧
    ((NUM.rat (1 / 2)).pow10).same (NUM.rat 10).sqrt = true ∧ ∀ a : NUM, a.val ≠ 0 → (a.mul a.inv).same (.rat 1) = true

/-- Comparison and the conversions to integers are exact for every real number (46_arithmetic_and_control.md section 1): of two
numbers exactly one of `<`, `=`, `>` holds, and it is the one of the reals; `floor(p) <= p < floor(p) + 1`,
`ceil(p) − 1 < p <= ceil(p)`, `round(p)` is the integer `k` with `k − 1/2 <= p < k + 1/2`, and `frac(p)` is `p − floor(p)`, in [0,1). -/
def Obligations.ComparisonAndRoundingAreExact : Prop :=
  (∀ a b : NUM, (a.lt b = true ↔ a.val < b.val) ∧ (a.same b = true ↔ a.val = b.val) ∧ (a.le b = true ↔ a.val ≤ b.val) ∧
      ((a.lt b).toNat + (a.same b).toNat + (b.lt a).toNat = 1)) ∧
    ∀ p : NUM, (p.floor : ℝ) ≤ p.val ∧ p.val < p.floor + 1 ∧ (p.ceil : ℝ) - 1 < p.val ∧ p.val ≤ p.ceil ∧
      (roundHalfUp p : ℝ) - 1 / 2 ≤ p.val ∧ p.val < roundHalfUp p + 1 / 2 ∧ (frac p).val = p.val - p.floor ∧
      0 ≤ (frac p).val ∧ (frac p).val < 1

/-- The modulation offset of 41_modulated_delay.md section 2 (R114) and the normalisation of 45_granular.md section 3 (R199), as
real numbers: `off = modAmount·sin(2·PI·phase)`, never larger than `modAmount`, extreme at a quarter and at three quarters of a
turn and 0 at a half; the factor is `1/sqrt(NG/2)`, so `factor²·NG/2 = 1`, it is 1 for `NG = 2` and its square is 1/3 for `NG = 6`. -/
def Obligations.OffsetAndNormalisationAreExact : Prop :=
  (∀ d : ModDelay, d.offset.val = d.modAmount.val * Real.sin (2 * Real.pi * d.phase.val) ∧
      |d.offset.val| ≤ |d.modAmount.val| ∧ (d.phase.val = 1 / 4 → d.offset.val = d.modAmount.val) ∧
      (d.phase.val = 3 / 4 → d.offset.val = -d.modAmount.val) ∧ (d.phase.val = 1 / 2 → d.offset.val = 0)) ∧
    ∀ p : Params, 1 ≤ p.numGrains → (grainNorm p).val = 1 / √(p.numGrains / 2) ∧ 0 < (grainNorm p).val ∧
      (grainNorm p).val ^ 2 * (p.numGrains / 2) = 1 ∧ (p.numGrains = 2 → (grainNorm p).val = 1) ∧
      (p.numGrains = 6 → (grainNorm p).val ^ 2 = 1 / 3)
end

