-- ==== Sys2Proof/Laws/Approx.lean ====
section
/-! SUPPORT. The approximations of Machine/Approx.lean: the error bound holds, and it goes to 0. -/

namespace Sys2Proof.NUM

open Filter Topology

/-! ## Series -/

theorem partialSum_eq (u : Nat → ℚ) (n : Nat) : partialSum u n = ∑ k ∈ Finset.range n, u k := by
  induction n with
  | zero => rfl
  | succ n ih => rw [partialSum, ih, Finset.sum_range_succ]

/-- From place `n` on the terms shrink at least by the factor `r`. -/
def shrinks (u : Nat → ℚ) (r : ℚ) (n : Nat) : Prop := ∀ k, n ≤ k → |u (k + 1)| ≤ r * |u k|

theorem shrinks.mono {u : Nat → ℚ} {r : ℚ} {m n : Nat} (h : shrinks u r m) (hmn : m ≤ n) : shrinks u r n :=
  fun k hk => h k (hmn.trans hk)

theorem shrinks.bound {u : Nat → ℚ} {r : ℚ} {n : Nat} (hr : 0 ≤ r) (h : shrinks u r n) (j : Nat) :
    |u (n + j)| ≤ |u n| * r ^ j := by
  induction j with
  | zero => simp
  | succ j ih =>
    calc |u (n + (j + 1))| ≤ r * |u (n + j)| := h (n + j) (by omega)
      _ ≤ r * (|u n| * r ^ j) := mul_le_mul_of_nonneg_left ih hr
      _ = |u n| * r ^ (j + 1) := by ring

/-- The partial sum is within the bound of the sum. -/
theorem series_error {u : Nat → ℚ} {r : ℚ} {n : Nat} {S : ℝ} (hs : HasSum (fun k => (u k : ℝ)) S) (h0 : 0 ≤ r)
    (h1 : r < 1) (h : shrinks u r n) : |S - (series u r n).1| ≤ (series u r n).2 := by
  have hr1 : (r : ℝ) < 1 := by exact_mod_cast h1
  have ht : Tendsto (fun j => ∑ k ∈ Finset.range (n + j), (u k : ℝ)) atTop (𝓝 S) := by
    have := hs.tendsto_sum_nat.comp (tendsto_add_atTop_nat n)
    simpa [Function.comp_def, Nat.add_comm] using this
  have hd : ∀ j, dist (∑ k ∈ Finset.range (n + j), (u k : ℝ)) (∑ k ∈ Finset.range (n + (j + 1)), (u k : ℝ)) ≤
      |(u n : ℝ)| * (r : ℝ) ^ j := by
    intro j
    rw [← Nat.add_assoc, Finset.sum_range_succ, dist_comm, Real.dist_eq, add_sub_cancel_left]
    exact_mod_cast h.bound h0 j
  have := dist_le_of_le_geometric_of_tendsto₀ (r : ℝ) _ hr1 hd ht
  rw [dist_comm, Real.dist_eq] at this
  simpa [series, partialSum_eq] using this

theorem HasSum_expTerm (x : ℚ) : HasSum (fun k => (expTerm x k : ℝ)) (Real.exp x) := by
  have := NormedSpace.expSeries_div_hasSum_exp (𝔸 := ℝ) (x : ℝ)
  rw [← Real.exp_eq_exp_ℝ] at this
  simpa [expTerm] using this

theorem HasSum_sinTerm (x : ℚ) : HasSum (fun k => (sinTerm x k : ℝ)) (Real.sin x) := by
  simpa [sinTerm] using Real.hasSum_sin (x : ℝ)

theorem HasSum_atanTerm {x : ℚ} (h : |x| < 1) : HasSum (fun k => (atanTerm x k : ℝ)) (Real.arctan x) := by
  have := Real.hasSum_arctan (x := (x : ℝ)) (by rw [Real.norm_eq_abs]; exact_mod_cast h)
  simpa [atanTerm] using this

theorem HasSum_logTerm {x : ℚ} (h : |x| < 1) :
    HasSum (fun k => (logTerm x k : ℝ)) (Real.log (1 + x) - Real.log (1 - x)) := by
  have := Real.hasSum_log_sub_log_of_abs_lt_one (x := (x : ℝ)) (by exact_mod_cast h)
  convert this using 2 with k
  simp [logTerm]; ring

/-- From twice the size of `x` on the terms of the exponential halve. -/
theorem termCount_ge (x : ℚ) (n : Nat) : 2 * |x| ≤ termCount x n := by
  have h : |x| ≤ (⌈|x|⌉.toNat : ℚ) := by
    have h1 : (⌈|x|⌉.toNat : Int) = ⌈|x|⌉ := Int.toNat_of_nonneg (Int.ceil_nonneg (abs_nonneg x))
    calc |x| ≤ (⌈|x|⌉ : ℚ) := Int.le_ceil _
      _ = ((⌈|x|⌉.toNat : Int) : ℚ) := by rw [h1]
      _ = _ := Int.cast_natCast _
  unfold termCount
  push_cast
  have : (0 : ℚ) ≤ n := by positivity
  linarith

theorem expTerm_shrinks (x : ℚ) : shrinks (expTerm x) (1 / 2) (termCount x 0) := by
  intro k hk
  have hx : 2 * |x| ≤ k := (termCount_ge x 0).trans (by exact_mod_cast hk)
  have h : expTerm x (k + 1) = x / (k + 1) * expTerm x k := by
    unfold expTerm
    rw [Nat.factorial_succ, pow_succ']
    push_cast
    field_simp
  rw [h, abs_mul]
  refine mul_le_mul_of_nonneg_right ?_ (abs_nonneg _)
  rw [abs_div, abs_of_pos (by positivity : (0 : ℚ) < k + 1), div_le_iff₀ (by positivity)]
  linarith

theorem sinTerm_shrinks (x : ℚ) : shrinks (sinTerm x) (1 / 2) (termCount x 0) := by
  intro k hk
  have hx : 2 * |x| ≤ k := (termCount_ge x 0).trans (by exact_mod_cast hk)
  have h : sinTerm x (k + 1) = -(x ^ 2 / ((2 * k + 2) * (2 * k + 3))) * sinTerm x k := by
    unfold sinTerm
    rw [show 2 * (k + 1) + 1 = (2 * k + 1) + 1 + 1 by omega, Nat.factorial_succ, Nat.factorial_succ]
    push_cast
    field_simp
    ring
  rw [h, abs_mul]
  refine mul_le_mul_of_nonneg_right ?_ (abs_nonneg _)
  rw [abs_neg, abs_div, abs_of_pos (by positivity : (0 : ℚ) < (2 * k + 2) * (2 * k + 3)), div_le_iff₀ (by positivity),
    abs_pow]
  have h0 := abs_nonneg x
  have hk0 : (0 : ℚ) ≤ k := by positivity
  nlinarith

theorem atanTerm_shrinks (x : ℚ) : shrinks (atanTerm x) (x ^ 2) 0 := by
  intro k _
  have h : atanTerm x (k + 1) = -(x ^ 2 * ((2 * k + 1) / (2 * k + 3))) * atanTerm x k := by
    unfold atanTerm
    push_cast
    field_simp
    ring
  rw [h, abs_mul]
  refine mul_le_mul_of_nonneg_right ?_ (abs_nonneg _)
  rw [abs_neg, abs_of_nonneg (by positivity)]
  have : ((2 * k + 1) / (2 * k + 3) : ℚ) ≤ 1 := by rw [div_le_one (by positivity)]; linarith
  nlinarith [sq_nonneg x]

theorem logTerm_shrinks (x : ℚ) : shrinks (logTerm x) (x ^ 2) 0 := by
  intro k _
  have h : logTerm x (k + 1) = x ^ 2 * ((2 * k + 1) / (2 * k + 3)) * logTerm x k := by
    unfold logTerm
    push_cast
    field_simp
    ring
  rw [h, abs_mul]
  refine mul_le_mul_of_nonneg_right ?_ (abs_nonneg _)
  rw [abs_of_nonneg (by positivity)]
  have : ((2 * k + 1) / (2 * k + 3) : ℚ) ≤ 1 := by rw [div_le_one (by positivity)]; linarith
  nlinarith [sq_nonneg x]

/-- A bound of a term of the exponential series by the exponential itself. -/
theorem pow_div_factorial_le (x : ℚ) (k : Nat) : |(x : ℝ)| ^ k / k.factorial ≤ Real.exp |(x : ℝ)| :=
  Real.pow_div_factorial_le_exp _ (abs_nonneg _) k

/-- The error bounds of `expAt` and `sinAt` go to 0 wherever the point stays bounded. -/
theorem term_bound {u : ℚ → Nat → ℚ} (hs : ∀ x, shrinks (u x) (1 / 2) (termCount x 0))
    (hu : ∀ x k, |((u x k : ℚ) : ℝ)| ≤ Real.exp |(x : ℝ)|) (x : ℚ) (n : Nat) :
    (((series (u x) (1 / 2) (termCount x n)).2 : ℚ) : ℝ) ≤ 2 * Real.exp |(x : ℝ)| * (1 / 2) ^ n := by
  have h1 : |u x (termCount x 0 + n)| ≤ |u x (termCount x 0)| * (1 / 2) ^ n := (hs x).bound (by norm_num) n
  have h2 : |((u x (termCount x 0 + n) : ℚ) : ℝ)| ≤ |((u x (termCount x 0) : ℚ) : ℝ)| * (1 / 2) ^ n := by
    have : ((|u x (termCount x 0 + n)| : ℚ) : ℝ) ≤ ((|u x (termCount x 0)| * (1 / 2) ^ n : ℚ) : ℝ) := Rat.cast_le.2 h1
    simpa using this
  have h3 := hu x (termCount x 0)
  have h4 : termCount x n = termCount x 0 + n := by unfold termCount; omega
  have h5 : (0 : ℝ) < (1 / 2) ^ n := by positivity
  rw [h4]
  simp only [series]
  push_cast
  rw [div_eq_mul_inv]
  norm_num
  nlinarith

theorem expTerm_abs_le (x : ℚ) (k : Nat) : |((expTerm x k : ℚ) : ℝ)| ≤ Real.exp |(x : ℝ)| := by
  refine le_trans (le_of_eq ?_) (pow_div_factorial_le x k)
  unfold expTerm
  push_cast
  rw [abs_div, abs_pow, abs_of_nonneg (by positivity : (0 : ℝ) ≤ (k.factorial : ℝ))]

theorem sinTerm_abs_le (x : ℚ) (k : Nat) : |((sinTerm x k : ℚ) : ℝ)| ≤ Real.exp |(x : ℝ)| := by
  refine le_trans (le_of_eq ?_) (pow_div_factorial_le x (2 * k + 1))
  unfold sinTerm
  push_cast
  rw [abs_div, abs_mul, abs_pow, abs_pow, abs_neg, abs_one, one_pow, one_mul,
    abs_of_nonneg (by positivity : (0 : ℝ) ≤ ((2 * k + 1).factorial : ℝ))]

theorem expAt_error (x : ℚ) (n : Nat) : |Real.exp x - (expAt x n).1| ≤ (expAt x n).2 :=
  series_error (HasSum_expTerm x) (by norm_num) (by norm_num)
    ((expTerm_shrinks x).mono (by unfold termCount; omega))

theorem sinAt_error (x : ℚ) (n : Nat) : |Real.sin x - (sinAt x n).1| ≤ (sinAt x n).2 :=
  series_error (HasSum_sinTerm x) (by norm_num) (by norm_num)
    ((sinTerm_shrinks x).mono (by unfold termCount; omega))

theorem expAt_bound (x : ℚ) (n : Nat) : (((expAt x n).2 : ℚ) : ℝ) ≤ 2 * Real.exp |(x : ℝ)| * (1 / 2) ^ n :=
  term_bound expTerm_shrinks expTerm_abs_le x n

theorem sinAt_bound (x : ℚ) (n : Nat) : (((sinAt x n).2 : ℚ) : ℝ) ≤ 2 * Real.exp |(x : ℝ)| * (1 / 2) ^ n :=
  term_bound sinTerm_shrinks sinTerm_abs_le x n

/-! ## Square root -/

theorem isqrtBits_spec (k m acc : Nat) (hl : acc * acc ≤ m) (hu : m < (acc + 2 ^ k) * (acc + 2 ^ k)) :
    isqrtBits k m acc * isqrtBits k m acc ≤ m ∧ m < (isqrtBits k m acc + 1) * (isqrtBits k m acc + 1) := by
  induction k generalizing acc with
  | zero => exact ⟨hl, by simpa [isqrtBits] using hu⟩
  | succ k ih =>
    rw [isqrtBits]
    split
    · rename_i h
      refine ih _ h ?_
      rwa [Nat.add_assoc, ← Nat.two_mul, ← Nat.pow_succ']
    · exact ih _ hl (not_le.1 ‹_›)

/-- `isqrt m` is the greatest natural number whose square is at most `m`. -/
theorem isqrt_spec (m : Nat) : isqrt m * isqrt m ≤ m ∧ m < (isqrt m + 1) * (isqrt m + 1) := by
  refine isqrtBits_spec _ m 0 (by simp) ?_
  have h : m < 2 ^ (m.log2 + 1) := Nat.lt_log2_self
  have h2 : m.log2 + 1 ≤ (m.log2 / 2 + 1) + (m.log2 / 2 + 1) := by omega
  calc m < 2 ^ (m.log2 + 1) := h
    _ ≤ 2 ^ ((m.log2 / 2 + 1) + (m.log2 / 2 + 1)) := Nat.pow_le_pow_right (by omega) h2
    _ = _ := by rw [Nat.pow_add]; simp

/-- `rootAt` rounds the root down by less than `1/2^n`. -/
theorem rootAt_spec (x : ℚ) (n : Nat) : (rootAt x n : ℝ) ≤ √(x : ℝ) ∧ √(x : ℝ) ≤ rootAt x n + 1 / 2 ^ n := by
  obtain ⟨h1, h2⟩ := isqrt_spec ⌊x * 4 ^ n⌋.toNat
  have h2n : (0 : ℝ) < 2 ^ n := by positivity
  have h4 : (4 : ℝ) ^ n = 2 ^ n * 2 ^ n := by rw [← mul_pow]; norm_num
  rcases le_or_gt 0 x with hx | hx
  · have hc : ((⌊x * 4 ^ n⌋.toNat : Nat) : Int) = ⌊x * 4 ^ n⌋ := Int.toNat_of_nonneg (Int.floor_nonneg.2 (by positivity))
    have hf1 : ((⌊x * 4 ^ n⌋.toNat : Nat) : ℚ) ≤ x * 4 ^ n := by
      calc ((⌊x * 4 ^ n⌋.toNat : Nat) : ℚ) = ((⌊x * 4 ^ n⌋.toNat : Nat) : Int) := (Int.cast_natCast _).symm
        _ = (⌊x * 4 ^ n⌋ : ℚ) := by rw [hc]
        _ ≤ _ := Int.floor_le _
    have hf2 : x * 4 ^ n < ((⌊x * 4 ^ n⌋.toNat : Nat) : ℚ) + 1 := by
      calc x * 4 ^ n < (⌊x * 4 ^ n⌋ : ℚ) + 1 := Int.lt_floor_add_one _
        _ = (((⌊x * 4 ^ n⌋.toNat : Nat) : Int) : ℚ) + 1 := by rw [hc]
        _ = _ := by rw [Int.cast_natCast]
    unfold rootAt
    generalize hi : isqrt ⌊x * 4 ^ n⌋.toNat = i at h1 h2 ⊢
    have h1' : ((i * i : Nat) : ℝ) ≤ (x : ℝ) * 4 ^ n := by
      have : ((i * i : Nat) : ℚ) ≤ x * 4 ^ n := le_trans (by exact_mod_cast h1) hf1
      exact_mod_cast this
    have h2' : (x : ℝ) * 4 ^ n ≤ (((i + 1) * (i + 1) : Nat) : ℝ) := by
      have h3 : ((⌊x * 4 ^ n⌋.toNat : Nat) : ℚ) + 1 ≤ (((i + 1) * (i + 1) : Nat) : ℚ) := by exact_mod_cast h2
      have : x * 4 ^ n ≤ (((i + 1) * (i + 1) : Nat) : ℚ) := by linarith
      exact_mod_cast this
    push_cast at h1' h2' ⊢
    constructor
    · refine Real.le_sqrt_of_sq_le ?_
      rw [div_pow, div_le_iff₀ (by positivity)]
      calc (i : ℝ) ^ 2 = i * i := by ring
        _ ≤ x * 4 ^ n := h1'
        _ = x * (2 ^ n) ^ 2 := by rw [h4]; ring
    · rw [Real.sqrt_le_left (by positivity), ← add_div, div_pow, le_div_iff₀ (by positivity)]
      calc (x : ℝ) * (2 ^ n) ^ 2 = x * 4 ^ n := by rw [h4]; ring
        _ ≤ (i + 1) * (i + 1) := h2'
        _ = _ := by ring
  · have hc : ⌊x * 4 ^ n⌋.toNat = 0 :=
      Int.toNat_of_nonpos (Int.floor_nonpos (mul_nonpos_of_nonpos_of_nonneg hx.le (by positivity)))
    have hi : isqrt 0 = 0 := by decide
    rw [Real.sqrt_eq_zero'.2 (by exact_mod_cast hx.le)]
    simp [rootAt, hc, hi]

/-! ## The approximation of an expression -/

theorem abs_exp_sub_one_le (t : ℝ) : |Real.exp t - 1| ≤ |t| * Real.exp |t| := by
  have h1 := Real.add_one_le_exp t
  have h2 := Real.add_one_le_exp (-t)
  have hp := Real.exp_pos t
  have h3 : Real.exp (-t) * Real.exp t = 1 := by rw [← Real.exp_add]; simp
  rw [abs_le]
  rcases le_or_gt 0 t with ht | ht
  · rw [abs_of_nonneg ht]; constructor <;> nlinarith
  · rw [abs_of_neg ht]
    have := Real.one_le_exp (by linarith : 0 ≤ -t)
    constructor <;> nlinarith

theorem sqrt_sub_sqrt_abs_le (x y : ℝ) : |√x - √y| ≤ √|x - y| := by
  wlog h : y ≤ x generalizing x y
  · rw [abs_sub_comm, abs_sub_comm x y]; exact this y x (le_of_not_ge h)
  · rw [abs_of_nonneg (sub_nonneg.2 (Real.sqrt_le_sqrt h)), abs_of_nonneg (sub_nonneg.2 h), sub_le_iff_le_add]
    rcases le_or_gt 0 y with hy | hy
    · rw [Real.sqrt_le_left (by positivity)]
      have h1 := Real.sq_sqrt (sub_nonneg.2 h)
      have h2 := Real.sq_sqrt hy
      have h3 : 0 ≤ √(x - y) * √y := by positivity
      nlinarith
    · rw [Real.sqrt_eq_zero'.2 hy.le, add_zero]
      exact Real.sqrt_le_sqrt (by linarith)

theorem inv_max_sub_inv_max_abs_le {c : ℝ} (hc : 0 < c) (x y : ℝ) :
    |(max c x)⁻¹ - (max c y)⁻¹| ≤ |x - y| * (c⁻¹) ^ 2 := by
  have hx : c ≤ max c x := le_max_left _ _
  have hy : c ≤ max c y := le_max_left _ _
  have hx0 : 0 < max c x := hc.trans_le hx
  have hy0 : 0 < max c y := hc.trans_le hy
  have h : (max c x)⁻¹ - (max c y)⁻¹ = (max c y - max c x) * ((max c x)⁻¹ * (max c y)⁻¹) := by field_simp
  have hm : |max c y - max c x| ≤ |x - y| := by
    rw [abs_sub_comm x y]
    simpa using abs_max_sub_max_le_max c y c x
  rw [h, abs_mul, abs_of_pos (by positivity : 0 < (max c x)⁻¹ * (max c y)⁻¹), sq]
  gcongr

theorem bit_error (i n : Nat) : |(∑' k, ((bitTerm i k : ℚ) : ℝ)) - partialSum (bitTerm i) n| ≤ 1 / 2 ^ n := by
  have hb : ∀ k, ‖((bitTerm i k : ℚ) : ℝ)‖ ≤ (1 / 2) * (1 / 2) ^ k := by
    intro k
    have h : (1 / 2 : ℝ) * (1 / 2) ^ k = 1 / 2 ^ (k + 1) := by rw [← pow_succ', one_div_pow]
    rw [h, bitTerm]
    split <;> simp
  have hs : Summable fun k => ((bitTerm i k : ℚ) : ℝ) :=
    Summable.of_norm_bounded ((summable_geometric_of_lt_one (by norm_num) (by norm_num)).mul_left _) hb
  have hd : ∀ j, dist (∑ k ∈ Finset.range j, ((bitTerm i k : ℚ) : ℝ)) (∑ k ∈ Finset.range (j + 1), ((bitTerm i k : ℚ) : ℝ)) ≤
      (1 / 2) * (1 / 2) ^ j := by
    intro j
    rw [Finset.sum_range_succ, dist_comm, Real.dist_eq, add_sub_cancel_left]
    exact hb j
  have := dist_le_of_le_geometric_of_tendsto (1 / 2 : ℝ) _ (by norm_num) hd hs.hasSum.tendsto_sum_nat n
  rw [dist_comm, Real.dist_eq] at this
  rw [partialSum_eq]
  push_cast
  refine this.trans (le_of_eq ?_)
  rw [one_div_pow]; ring

theorem piAt_error (n : Nat) : |Real.pi - (piAt n).1| ≤ (piAt n).2 := by
  have h5 := series_error (HasSum_atanTerm (x := 1 / 5) (by norm_num [abs_lt])) (by norm_num) (by norm_num)
    ((atanTerm_shrinks (1 / 5)).mono (Nat.zero_le n))
  have h239 := series_error (HasSum_atanTerm (x := 1 / 239) (by norm_num [abs_lt])) (by norm_num) (by norm_num)
    ((atanTerm_shrinks (1 / 239)).mono (Nat.zero_le n))
  have hp := Real.four_mul_arctan_inv_5_sub_arctan_inv_239
  rw [show ((1 / 5 : ℚ) ^ 2) = 1 / 25 by norm_num] at h5
  rw [show ((1 / 239 : ℚ) ^ 2) = 1 / 57121 by norm_num] at h239
  rw [show (((1 / 5 : ℚ) : ℝ)) = (5 : ℝ)⁻¹ by norm_num] at h5
  rw [show (((1 / 239 : ℚ) : ℝ)) = (239 : ℝ)⁻¹ by norm_num] at h239
  have e : Real.pi = 16 * Real.arctan 5⁻¹ - 4 * Real.arctan 239⁻¹ := by linarith
  simp only [piAt]
  push_cast
  rw [abs_le] at *
  constructor <;> rw [e] <;> linarith [h5.1, h5.2, h239.1, h239.2]

theorem ln10At_error (n : Nat) : |Real.log 10 - (ln10At n).1| ≤ (ln10At n).2 := by
  have h := series_error (HasSum_logTerm (x := 9 / 11) (by norm_num [abs_lt])) (by norm_num) (by norm_num)
    ((logTerm_shrinks (9 / 11)).mono (Nat.zero_le (2 * n)))
  rw [← Real.log_div (by norm_num) (by norm_num), show ((9 / 11 : ℚ) ^ 2) = 81 / 121 by norm_num] at h
  have e : (1 + ((9 / 11 : ℚ) : ℝ)) / (1 - ((9 / 11 : ℚ) : ℝ)) = 10 := by norm_num
  rwa [e] at h

/-- The named real is within the bound of its approximation, at every precision. -/
theorem approx_error (a : NUM) (n : Nat) : |a.val - (a.approx n).1| ≤ (a.approx n).2 := by
  induction a with
  | rat q => simp [val, approx]
  | given i =>
    have := bit_error i n
    simpa [val, approx] using this
  | pi => exact piAt_error n
  | ln10 => exact ln10At_error n
  | sum a b iha ihb =>
    simp only [val, approx]
    push_cast
    rw [abs_le] at *
    constructor <;> linarith [iha.1, iha.2, ihb.1, ihb.2]
  | prod a b iha ihb =>
    simp only [val, approx]
    push_cast
    generalize (((a.approx n).1 : ℚ) : ℝ) = x at *
    generalize (((a.approx n).2 : ℚ) : ℝ) = r at *
    generalize (((b.approx n).1 : ℚ) : ℝ) = y at *
    generalize (((b.approx n).2 : ℚ) : ℝ) = q at *
    have h : a.val * b.val - x * y = x * (b.val - y) + y * (a.val - x) + (a.val - x) * (b.val - y) := by ring
    rw [h]
    refine (abs_add_le _ _).trans (add_le_add ((abs_add_le _ _).trans (add_le_add ?_ ?_)) ?_)
    · rw [abs_mul]; gcongr
    · rw [abs_mul]; gcongr
    · rw [abs_mul]; exact mul_le_mul iha ihb (abs_nonneg _) ((abs_nonneg _).trans iha)
  | opp a ih =>
    simp only [val, approx]
    push_cast
    rwa [← neg_add', abs_neg, ← sub_eq_add_neg]
  | recip k a ih =>
    have hc : (0 : ℝ) < 1 / (k + 1) := by positivity
    have := inv_max_sub_inv_max_abs_le hc a.val (a.approx n).1
    simp only [val, approx]
    push_cast
    refine this.trans ?_
    rw [one_div, inv_inv]
    gcongr
  | root a ih =>
    simp only [val, approx]
    push_cast
    have h1 := sqrt_sub_sqrt_abs_le a.val (a.approx n).1
    have h2 := rootAt_spec (a.approx n).1 n
    have h3 := rootAt_spec (a.approx n).2 n
    have h4 := Real.sqrt_le_sqrt ih
    have h5 : (2 : ℝ) / 2 ^ n = 1 / 2 ^ n + 1 / 2 ^ n := by ring
    rw [abs_le] at *
    constructor <;> linarith [h1.1, h1.2, h2.1, h2.2, h3.1, h3.2]
  | sine a ih =>
    simp only [val, approx]
    push_cast
    have h1 := sinAt_error (a.approx n).1 n
    have h2 : |Real.sin a.val - Real.sin (a.approx n).1| ≤ |a.val - (a.approx n).1| := by
      simpa [Real.dist_eq] using Real.lipschitzWith_sin.dist_le_mul a.val (a.approx n).1
    rw [abs_le] at h1 h2
    have := abs_le.1 (abs_le.2 h2 |>.trans ih)
    rw [abs_le]
    constructor <;> linarith [h1.1, h1.2, this.1, this.2]
  | expo a ih =>
    simp only [val, approx]
    push_cast
    have hx := expAt_error (a.approx n).1 n
    have hr := expAt_error (a.approx n).2 n
    generalize (((expAt (a.approx n).1 n).1 : ℚ) : ℝ) = y at *
    generalize (((expAt (a.approx n).1 n).2 : ℚ) : ℝ) = e at *
    generalize (((expAt (a.approx n).2 n).1 : ℚ) : ℝ) = z at *
    generalize (((expAt (a.approx n).2 n).2 : ℚ) : ℝ) = f at *
    generalize (((a.approx n).1 : ℚ) : ℝ) = x at *
    generalize (((a.approx n).2 : ℚ) : ℝ) = r at *
    have h0 : 0 ≤ |a.val - x| := abs_nonneg _
    have h : Real.exp a.val - Real.exp x = Real.exp x * (Real.exp (a.val - x) - 1) := by
      rw [mul_sub, ← Real.exp_add]; ring_nf
    have hb : |Real.exp a.val - Real.exp x| ≤ (y + e) * r * (z + f) := by
      rw [h, abs_mul, abs_of_pos (Real.exp_pos x), mul_assoc]
      have h1 : |Real.exp (a.val - x) - 1| ≤ r * Real.exp r :=
        (abs_exp_sub_one_le _).trans (mul_le_mul ih (Real.exp_le_exp.2 ih) (Real.exp_pos _).le (h0.trans ih))
      have h2 : Real.exp x ≤ y + e := by linarith [(abs_le.1 hx).2]
      have h3 : Real.exp r ≤ z + f := by linarith [(abs_le.1 hr).2]
      have h4 : 0 ≤ r := h0.trans ih
      have h5 := Real.exp_pos x
      have h6 := Real.exp_pos r
      calc Real.exp x * |Real.exp (a.val - x) - 1| ≤ (y + e) * (r * Real.exp r) :=
            mul_le_mul h2 h1 (abs_nonneg _) (h5.le.trans h2)
        _ ≤ (y + e) * (r * (z + f)) := by gcongr; exact h5.le.trans h2
    rw [abs_le] at *
    constructor <;> linarith [hx.1, hx.2, hb.1, hb.2]

/-! ## The bound goes to 0 -/

theorem half_pow_tendsto : Tendsto (fun n : Nat => (1 / 2 : ℝ) ^ n) atTop (𝓝 0) :=
  tendsto_pow_atTop_nhds_zero_of_lt_one (by norm_num) (by norm_num)

theorem series_bound_tendsto {u : Nat → ℚ} {S : ℝ} (hs : HasSum (fun k => (u k : ℝ)) S) (r : ℚ) :
    Tendsto (fun n => (((series u r n).2 : ℚ) : ℝ)) atTop (𝓝 0) := by
  have h : Tendsto (fun n => |((u n : ℚ) : ℝ)| / (1 - r)) atTop (𝓝 (|0| / (1 - r))) :=
    (hs.summable.tendsto_atTop_zero.abs).div_const _
  simpa [series] using h

/-- Where the error bound goes to 0, the approximations go where the values go. -/
theorem tendsto_of_error {w : ℝ} {v m r : Nat → ℝ} (hv : Tendsto v atTop (𝓝 w)) (h : ∀ n, |v n - m n| ≤ r n)
    (hr : Tendsto r atTop (𝓝 0)) : Tendsto m atTop (𝓝 w) := by
  have hd : Tendsto (fun n => v n - m n) atTop (𝓝 0) :=
    squeeze_zero_norm (fun n => by rw [Real.norm_eq_abs]; exact h n) hr
  simpa using hv.sub hd

/-- A bound that is at most `2·exp|m n|/2^n` goes to 0 where `m` converges. -/
theorem tendsto_of_exp_bound {m : Nat → ℚ} {e : Nat → ℝ} {v : ℝ} (hm : Tendsto (fun n => (m n : ℝ)) atTop (𝓝 v))
    (h0 : ∀ n, 0 ≤ e n) (h : ∀ n, e n ≤ 2 * Real.exp |(m n : ℝ)| * (1 / 2) ^ n) : Tendsto e atTop (𝓝 0) := by
  refine squeeze_zero h0 h ?_
  have h1 : Tendsto (fun n => 2 * Real.exp |(m n : ℝ)|) atTop (𝓝 (2 * Real.exp |v|)) :=
    (Real.continuous_exp.tendsto _ |>.comp hm.abs).const_mul 2
  simpa using h1.mul half_pow_tendsto

theorem approx_bound_nonneg (a : NUM) (n : Nat) : (0 : ℝ) ≤ (a.approx n).2 := (abs_nonneg _).trans (approx_error a n)

/-- The error bound of the approximations goes to 0. -/
theorem approx_bound_tendsto (a : NUM) : Tendsto (fun n => (((a.approx n).2 : ℚ) : ℝ)) atTop (𝓝 0) := by
  induction a with
  | rat q => simp [approx]
  | given i => simpa [approx] using half_pow_tendsto
  | pi =>
    have h5 := series_bound_tendsto (HasSum_atanTerm (x := 1 / 5) (by norm_num [abs_lt])) (1 / 25)
    have h239 := series_bound_tendsto (HasSum_atanTerm (x := 1 / 239) (by norm_num [abs_lt])) (1 / 57121)
    simpa [approx, piAt] using (h5.const_mul 16).add (h239.const_mul 4)
  | ln10 =>
    have h := series_bound_tendsto (HasSum_logTerm (x := 9 / 11) (by norm_num [abs_lt])) (81 / 121)
    exact h.comp (tendsto_id.const_mul_atTop' (by norm_num : 0 < 2))
  | sum a b iha ihb => simpa [approx] using iha.add ihb
  | prod a b iha ihb =>
    have ha := tendsto_of_error tendsto_const_nhds (approx_error a) iha
    have hb := tendsto_of_error tendsto_const_nhds (approx_error b) ihb
    simpa [approx] using ((ha.abs.mul ihb).add (hb.abs.mul iha)).add (iha.mul ihb)
  | opp a ih => simpa [approx] using ih
  | recip k a ih => simpa [approx] using ih.mul_const (((k : ℝ) + 1) ^ 2)
  | root a ih =>
    have h1 : Tendsto (fun n => √(((a.approx n).2 : ℚ) : ℝ)) atTop (𝓝 0) := by
      simpa [Function.comp_def] using (Real.continuous_sqrt.tendsto 0).comp ih
    have h2 : Tendsto (fun n => ((rootAt (a.approx n).2 n : ℚ) : ℝ)) atTop (𝓝 0) := by
      refine squeeze_zero (fun n => ?_) (fun n => (rootAt_spec (a.approx n).2 n).1) h1
      simp only [rootAt]
      push_cast
      positivity
    have h3 : Tendsto (fun n : Nat => (2 : ℝ) / 2 ^ n) atTop (𝓝 0) := by
      simpa [div_eq_mul_inv] using half_pow_tendsto.const_mul 2
    simpa [approx] using h2.add h3
  | sine a ih =>
    have hm := tendsto_of_error tendsto_const_nhds (approx_error a) ih
    have h := tendsto_of_exp_bound hm (fun n => (abs_nonneg _).trans (sinAt_error (a.approx n).1 n))
      (fun n => sinAt_bound (a.approx n).1 n)
    simpa [approx] using h.add ih
  | expo a ih =>
    have hm := tendsto_of_error tendsto_const_nhds (approx_error a) ih
    have he := tendsto_of_exp_bound hm (fun n => (abs_nonneg _).trans (expAt_error (a.approx n).1 n))
      (fun n => expAt_bound (a.approx n).1 n)
    have hf := tendsto_of_exp_bound ih (fun n => (abs_nonneg _).trans (expAt_error (a.approx n).2 n))
      (fun n => expAt_bound (a.approx n).2 n)
    have hy := tendsto_of_error ((Real.continuous_exp.tendsto _).comp hm) (fun n => expAt_error (a.approx n).1 n) he
    have hz := tendsto_of_error ((Real.continuous_exp.tendsto _).comp ih) (fun n => expAt_error (a.approx n).2 n) hf
    simpa [approx] using he.add (((hy.add he).mul ih).mul (hz.add hf))

end Sys2Proof.NUM
end

