-- ==== Sys2Proof/Laws/Arith.lean ====
section
/-! SUPPORT. What real number each operation of the arithmetic results in, and that comparison and `floor` are exact. -/

namespace Sys2Proof.NUM

open Filter Topology

/-! ## Search -/

theorem searchFrom_some {α : Type} {f : Nat → Option α} {n : Nat} {a : α} (h : searchFrom f n = some a) :
    ∃ m, f m = some a := by
  refine searchFrom.partial_correctness f (fun _ a => ∃ m, f m = some a) ?_ n a h
  intro g ih n r hr
  split at hr
  · simp only [Option.some.injEq] at hr
    exact ⟨n, by simp_all⟩
  · exact ih _ _ hr

theorem searchFrom_none {α : Type} {f : Nat → Option α} {n : Nat} (h : searchFrom f n = none) (k : Nat) :
    f (n + k) = none := by
  induction k generalizing n with
  | zero =>
    rw [searchFrom] at h
    revert h
    split
    · simp
    · intro _; assumption
  | succ k ih =>
    rw [searchFrom] at h
    revert h
    split
    · simp
    · intro h; have := ih h; rwa [Nat.add_right_comm] at this

theorem searchFuel_some {α : Type} {f : Nat → Option α} {fuel n : Nat} {a : α} (h : searchFuel f fuel n = some a) :
    ∃ m, f m = some a := by
  induction fuel generalizing n with
  | zero => exact searchFrom_some h
  | succ fuel ih =>
    rw [searchFuel] at h
    split at h
    · simp only [Option.some.injEq] at h
      exact ⟨n, by simp_all⟩
    · exact ih h

theorem searchFuel_none {α : Type} {f : Nat → Option α} {fuel n : Nat} (h : searchFuel f fuel n = none) (k : Nat) :
    f (n + k) = none := by
  induction fuel generalizing n k with
  | zero => exact searchFrom_none h k
  | succ fuel ih =>
    rw [searchFuel] at h
    split at h
    · cases h
    · cases k with
      | zero => assumption
      | succ k => have := ih h k; rwa [Nat.add_right_comm] at this

/-- What a search answers is an answer of the function. -/
theorem search_some {α : Type} {f : Nat → Option α} {a : α} (h : search f = some a) : ∃ m, f m = some a :=
  searchFuel_some h

/-- A search answers nothing only where there is no answer. -/
theorem search_none {α : Type} {f : Nat → Option α} (h : search f = none) (n : Nat) : f n = none := by
  simpa using searchFuel_none h n

/-! ## Ring operations -/

@[simp] theorem val_rat (q : ℚ) : (NUM.rat q).val = q := rfl

@[simp] theorem val_ofNat (n : Nat) : (ofNat n).val = n := by simp [ofNat]

@[simp] theorem val_ofInt (z : Int) : (ofInt z).val = z := by simp [ofInt]

@[simp] theorem val_add (a b : NUM) : (a.add b).val = a.val + b.val := by
  unfold add
  split
  · simp
  · split
    · simp [*]
    · split
      · simp [*]
      · rfl

@[simp] theorem val_neg (a : NUM) : a.neg.val = -a.val := by
  cases a <;> simp [neg, val]

@[simp] theorem val_sub (a b : NUM) : (a.sub b).val = a.val - b.val := by
  unfold sub
  split
  · simp [*]
  · rw [val_add, val_neg, sub_eq_add_neg]

@[simp] theorem val_mul (a b : NUM) : (a.mul b).val = a.val * b.val := by
  unfold mul
  split
  · simp
  · split
    · rename_i h; rcases h with rfl | rfl <;> simp
    · split
      · simp [*]
      · split
        · simp [*]
        · rfl

/-! ## Order -/

/-- A number whose approximations never keep away from 0 is 0. -/
theorem val_eq_zero_of_approx {a : NUM}
    (h : ∀ n, ¬ (a.approx n).2 < (a.approx n).1 ∧ ¬ (a.approx n).1 < -(a.approx n).2) : a.val = 0 := by
  have hb : ∀ n, |a.val| ≤ 2 * (((a.approx n).2 : ℚ) : ℝ) := by
    intro n
    have h1 : (((a.approx n).1 : ℚ) : ℝ) ≤ (a.approx n).2 := by exact_mod_cast not_lt.1 (h n).1
    have h2 : -(((a.approx n).2 : ℚ) : ℝ) ≤ (a.approx n).1 := by exact_mod_cast not_lt.1 (h n).2
    have h3 := abs_le.1 (approx_error a n)
    rw [abs_le]
    constructor <;> linarith [h3.1, h3.2]
  have ht : Tendsto (fun n => 2 * (((a.approx n).2 : ℚ) : ℝ)) atTop (𝓝 0) := by
    simpa using (approx_bound_tendsto a).const_mul 2
  exact abs_eq_zero.1 (le_antisymm (ge_of_tendsto' ht hb) (abs_nonneg _))

/-- What a sign says of a real. -/
def signOf (o : Ordering) (v : ℝ) : Prop :=
  match o with
  | .lt => v < 0
  | .eq => v = 0
  | .gt => 0 < v

theorem pos_of_approx {a : NUM} {n : Nat} (h : (a.approx n).2 < (a.approx n).1) :
    (0 : ℝ) < (((a.approx n).1 - (a.approx n).2 : ℚ) : ℝ) ∧ (((a.approx n).1 - (a.approx n).2 : ℚ) : ℝ) ≤ a.val := by
  have h3 := abs_le.1 (approx_error a n)
  refine ⟨Rat.cast_pos.2 (sub_pos.2 h), ?_⟩
  push_cast
  linarith [h3.1]

theorem neg_of_approx {a : NUM} {n : Nat} (h : (a.approx n).1 < -(a.approx n).2) :
    (0 : ℝ) < ((-(a.approx n).1 - (a.approx n).2 : ℚ) : ℝ) ∧ ((-(a.approx n).1 - (a.approx n).2 : ℚ) : ℝ) ≤ -a.val := by
  have h3 := abs_le.1 (approx_error a n)
  refine ⟨Rat.cast_pos.2 (by linarith), ?_⟩
  push_cast
  linarith [h3.2]

theorem searchSign_spec (a : NUM) : signOf a.searchSign a.val := by
  unfold searchSign
  generalize hs : search _ = o
  cases o with
  | none =>
    refine val_eq_zero_of_approx fun n => ?_
    have := search_none hs n
    revert this
    dsimp only
    split
    · simp
    · split <;> simp [*]
  | some o =>
    obtain ⟨n, hn⟩ := search_some hs
    dsimp only at hn
    split at hn
    · rename_i h
      cases hn
      exact (pos_of_approx h).1.trans_le (pos_of_approx h).2
    · split at hn
      · rename_i h
        cases hn
        exact neg_pos.1 ((neg_of_approx h).1.trans_le (neg_of_approx h).2)
      · cases hn

theorem sign_spec (a : NUM) : signOf a.sign a.val := by
  unfold sign
  split
  · rename_i q
    rcases lt_trichotomy q 0 with h | h | h
    · rw [if_pos h, signOf, val_rat]; exact_mod_cast h
    · simp [h, signOf]
    · simpa [signOf, h.not_gt, h.ne'] using h
  · exact searchSign_spec a

theorem sign_eq_gt_iff (a : NUM) : a.sign = .gt ↔ 0 < a.val := by
  have h := sign_spec a
  generalize a.sign = o at h
  cases o <;> simp [signOf] at h ⊢
  · exact h.le
  · exact h.le
  · exact h

/-- `isZero` is exact. -/
@[simp] theorem isZero_iff (a : NUM) : a.isZero = true ↔ a.val = 0 := by
  have h := sign_spec a
  unfold isZero
  generalize a.sign = o at h
  cases o <;> simp [signOf] at h ⊢
  · exact h.ne
  · exact h
  · exact h.ne'

/-- `lt` is the order of the reals. -/
@[simp] theorem lt_iff (a b : NUM) : a.lt b = true ↔ a.val < b.val := by
  unfold lt
  rw [beq_iff_eq, sign_eq_gt_iff, val_sub, sub_pos]

/-- `le` is the order of the reals. -/
@[simp] theorem le_iff (a b : NUM) : a.le b = true ↔ a.val ≤ b.val := by
  rw [le, Bool.not_eq_true', ← Bool.not_eq_true, lt_iff, not_lt]

/-- `same` is equality of the reals. -/
@[simp] theorem same_iff (a b : NUM) : a.same b = true ↔ a.val = b.val := by
  rw [same, isZero_iff, val_sub, sub_eq_zero]

@[simp] theorem val_greater (a b : NUM) : (a.greater b).val = Max.max a.val b.val := by
  unfold greater
  split
  · rename_i h; rw [max_eq_right ((lt_iff a b).1 h).le]
  · rename_i h; rw [max_eq_left (not_lt.1 fun h' => h ((lt_iff a b).2 h'))]

@[simp] theorem val_abs (a : NUM) : a.abs.val = |a.val| := by
  unfold abs
  split
  · rename_i h
    have : a.val < 0 := by simpa using h
    rw [val_neg, abs_of_neg this]
  · rename_i h
    have : 0 ≤ a.val := by simpa using h
    rw [abs_of_nonneg this]

/-! ## Integer part -/

theorem searchFloor_eq (a : NUM) : a.searchFloor = ⌊a.val⌋ := by
  unfold searchFloor
  generalize hs : search _ = o
  cases o with
  | none =>
    obtain ⟨n, hn⟩ := ((approx_bound_tendsto a).eventually (gt_mem_nhds (by norm_num : (0 : ℝ) < 1 / 2))).exists
    have h1 : 2 * (a.approx n).2 < 1 := by
      have : (2 * (((a.approx n).2 : ℚ) : ℝ)) < 1 := by linarith
      exact_mod_cast this
    have := search_none hs n
    simp [h1] at this
  | some k =>
    obtain ⟨n, hn⟩ := search_some hs
    dsimp only at hn
    split at hn
    · rename_i h
      cases hn
      have h3 := abs_le.1 (approx_error a n)
      have h4 : (2 * (((a.approx n).2 : ℚ) : ℝ)) < 1 := by exact_mod_cast h
      have hf1 : ((⌊(a.approx n).1 + (a.approx n).2⌋ : Int) : ℝ) ≤ ((a.approx n).1 + (a.approx n).2 : ℚ) := by
        exact_mod_cast Int.floor_le _
      have hf2 : (((a.approx n).1 + (a.approx n).2 : ℚ) : ℝ) < (⌊(a.approx n).1 + (a.approx n).2⌋ : Int) + 1 := by
        exact_mod_cast Int.lt_floor_add_one ((a.approx n).1 + (a.approx n).2)
      push_cast at hf1 hf2
      dsimp only [Option.getD_some]
      split
      · rename_i hk
        rw [le_iff, val_ofInt] at hk
        exact (Int.floor_eq_iff.2 ⟨hk, by linarith [h3.2]⟩).symm
      · rename_i hk
        rw [le_iff, val_ofInt, not_le] at hk
        refine (Int.floor_eq_iff.2 ⟨?_, ?_⟩).symm
        · push_cast; linarith [h3.1]
        · push_cast; linarith
    · cases hn

/-- `floor` is exact. -/
@[simp] theorem floor_eq (a : NUM) : a.floor = ⌊a.val⌋ := by
  unfold floor
  split
  · simp
  · exact searchFloor_eq a

/-- `ceil` is exact. -/
@[simp] theorem ceil_eq (a : NUM) : a.ceil = ⌈a.val⌉ := by
  rw [ceil, floor_eq, val_neg, Int.floor_neg, neg_neg]

/-- The digit sequence of a number depends on its value alone. -/
theorem digits_congr {a b : NUM} (h : a.val = b.val) : a.digits = b.digits := by
  funext k
  simp [digits, h]

/-! ## Division -/

theorem le_succ_ceil {m : ℚ} : 1 / m ≤ (⌈1 / m⌉.toNat : ℚ) + 1 := by
  have h1 : (⌈1 / m⌉ : ℚ) ≤ ((⌈1 / m⌉.toNat : Int) : ℚ) := by exact_mod_cast Int.self_le_toNat _
  have h2 := Int.le_ceil (1 / m)
  rw [Int.cast_natCast] at h1
  linarith

/-- Where the bound `1/(k+1)` is met, `recip` is the reciprocal. -/
theorem val_recip_of_le {a : NUM} {m : ℚ} (h0 : (0 : ℝ) < m) (h : (m : ℝ) ≤ a.val) :
    (NUM.recip ⌈1 / m⌉.toNat a).val = a.val⁻¹ := by
  have h0' : (0 : ℚ) < m := by exact_mod_cast h0
  have h1 : (1 / (m : ℝ)) ≤ (⌈1 / m⌉.toNat : ℝ) + 1 := by exact_mod_cast le_succ_ceil (m := m)
  have h2 : 1 / ((⌈1 / m⌉.toNat : ℝ) + 1) ≤ m := by
    rw [div_le_iff₀ (by positivity)]
    rw [div_le_iff₀ h0] at h1
    linarith
  rw [val, max_eq_right (h2.trans h)]

theorem val_searchInv (a : NUM) : a.searchInv.val = a.val⁻¹ := by
  unfold searchInv
  generalize hs : search _ = o
  cases o with
  | none =>
    have : a.val = 0 := by
      refine val_eq_zero_of_approx fun n => ?_
      have := search_none hs n
      revert this
      dsimp only
      split
      · simp
      · split <;> simp [*]
    simp [this]
  | some o =>
    obtain ⟨n, hn⟩ := search_some hs
    dsimp only at hn
    have hr : (0 : ℚ) ≤ (a.approx n).2 := by exact_mod_cast approx_bound_nonneg a n
    split at hn
    · rename_i h
      cases hn
      have hp := pos_of_approx h
      rw [abs_of_pos (hr.trans_lt h)]
      exact val_recip_of_le hp.1 hp.2
    · split at hn
      · rename_i h
        cases hn
        have hp := neg_of_approx h
        rw [abs_of_neg (by linarith)]
        rw [← val_neg] at hp
        rw [Option.getD_some, val, val_recip_of_le hp.1 hp.2, val_neg, inv_neg, neg_neg]
      · cases hn

@[simp] theorem val_inv (a : NUM) : a.inv.val = a.val⁻¹ := by
  unfold inv
  split
  · simp
  · exact val_searchInv a

@[simp] theorem val_div (a b : NUM) : (a.div b).val = a.val / b.val := by
  rw [div, val_mul, val_inv, div_eq_mul_inv]

/-! ## The real functions -/

/-- The root of a number that is not negative is the real square root. -/
theorem val_sqrt {a : NUM} (h : 0 ≤ a.val) : a.sqrt.val = √a.val := by
  unfold sqrt
  rw [if_neg (by simpa using h)]
  split
  · rename_i q
    dsimp only
    split
    · rename_i hm
      have hq : 0 ≤ q := by simpa using h
      have hn : ((q.num.toNat : Nat) : ℚ) = q.num := by exact_mod_cast Int.toNat_of_nonneg (Rat.num_nonneg.2 hq)
      have hd : (q.den : ℚ) ≠ 0 := by exact_mod_cast q.den_ne_zero
      have hsq : ((isqrt (q.num.toNat * q.den) : ℚ) / q.den) ^ 2 = q := by
        have : ((isqrt (q.num.toNat * q.den) : Nat) : ℚ) * isqrt (q.num.toNat * q.den) = q.num * q.den := by
          rw [← hn]; exact_mod_cast hm
        rw [div_pow, sq, this]
        conv_rhs => rw [← Rat.num_div_den q]
        field_simp
      symm
      rw [val_rat, val_rat, Real.sqrt_eq_iff_mul_self_eq (by exact_mod_cast hq) (by positivity), ← sq]
      exact_mod_cast hsq.symm
    · rfl
  · rfl

@[simp] theorem val_turns (a : NUM) : a.turns.val = a.val * (2 * Real.pi) := by
  rw [turns, val_mul, val_mul]; simp [val]

theorem sin_rationalSines : ∀ c ∈ rationalSines, Real.sin (2 * Real.pi * (c.1 : ℝ)) = c.2 := by
  have h6 : Real.sin (Real.pi / 6) = 1 / 2 := Real.sin_pi_div_six
  have e5 : Real.sin (Real.pi - Real.pi / 6) = 1 / 2 := by rw [Real.sin_pi_sub, h6]
  have e7 : Real.sin (Real.pi / 6 + Real.pi) = -(1 / 2) := by rw [Real.sin_add_pi, h6]
  have e9 : Real.sin (Real.pi / 2 + Real.pi) = -1 := by rw [Real.sin_add_pi, Real.sin_pi_div_two]
  have e11 : Real.sin (2 * Real.pi - Real.pi / 6) = -(1 / 2) := by rw [Real.sin_two_pi_sub, h6]
  intro c hc
  fin_cases hc
  · simp
  · rw [← h6.trans (by norm_num : (1 / 2 : ℝ) = ((1 / 2 : ℚ) : ℝ))]; congr 1; push_cast; ring
  · rw [← Real.sin_pi_div_two.trans (by norm_num : (1 : ℝ) = ((1 : ℚ) : ℝ))]; congr 1; push_cast; ring
  · rw [← e5.trans (by norm_num : (1 / 2 : ℝ) = ((1 / 2 : ℚ) : ℝ))]; congr 1; push_cast; ring
  · rw [← Real.sin_pi.trans (by norm_num : (0 : ℝ) = ((0 : ℚ) : ℝ))]; congr 1; push_cast; ring
  · rw [← e7.trans (by norm_num : (-(1 / 2) : ℝ) = ((-1 / 2 : ℚ) : ℝ))]; congr 1; push_cast; ring
  · rw [← e9.trans (by norm_num : (-1 : ℝ) = ((-1 : ℚ) : ℝ))]; congr 1; push_cast; ring
  · rw [← e11.trans (by norm_num : (-(1 / 2) : ℝ) = ((-1 / 2 : ℚ) : ℝ))]; congr 1; push_cast; ring

@[simp] theorem val_sinTurns (t : NUM) : t.sinTurns.val = Real.sin (2 * Real.pi * t.val) := by
  have hs : ∀ a : NUM, (NUM.sine a.turns).val = Real.sin (2 * Real.pi * a.val) := fun a => by
    rw [val, val_turns, mul_comm]
  unfold sinTurns
  split
  · rename_i q
    split
    · rename_i c hc
      have h1 : c.1 = q - ⌊q⌋ := of_decide_eq_true (List.find?_some hc :)
      have h2 := sin_rationalSines c (List.mem_of_find?_eq_some hc)
      rw [val_rat, val_rat, ← h2, h1]
      push_cast
      rw [mul_sub, mul_comm (2 * Real.pi) (⌊q⌋ : ℝ), Real.sin_sub_int_mul_two_pi]
    · exact hs _
  · exact hs t

@[simp] theorem val_cosTurns (t : NUM) : t.cosTurns.val = Real.cos (2 * Real.pi * t.val) := by
  rw [cosTurns, val_sinTurns, val_add, ← Real.sin_add_pi_div_two, val_rat]
  congr 1
  push_cast
  ring

@[simp] theorem val_expNegTurns (t : NUM) : t.expNegTurns.val = Real.exp (-(2 * Real.pi * t.val)) := by
  unfold expNegTurns
  split
  · simp [*]
  · rw [val, val_neg, val_turns, mul_comm]

@[simp] theorem val_pow10 (e : NUM) : e.pow10.val = (10 : ℝ) ^ e.val := by
  have h : ∀ a : NUM, (NUM.expo (a.mul .ln10)).val = (10 : ℝ) ^ a.val := fun a => by
    rw [val, val_mul, Real.rpow_def_of_pos (by norm_num), mul_comm]; rfl
  unfold pow10
  split
  · rename_i q
    split
    · rename_i hd
      have hq : ((q : ℚ) : ℝ) = (q.num : ℝ) := by
        exact_mod_cast congrArg (fun x : ℚ => (x : ℝ)) (Rat.den_eq_one_iff q |>.1 hd).symm
      rw [val_rat, val_rat, hq, Real.rpow_intCast]
      push_cast
      rfl
    · exact h _
  · exact h e

end Sys2Proof.NUM

namespace Sys2Proof.Machine

@[simp] theorem val_frac (p : NUM) : (frac p).val = Int.fract p.val := by
  rw [frac, NUM.val_sub, NUM.val_ofInt, NUM.floor_eq, Int.self_sub_floor]

@[simp] theorem roundHalfUp_eq (p : NUM) : roundHalfUp p = ⌊p.val + 1 / 2⌋ := by simp [roundHalfUp]

theorem frac_nonneg (p : NUM) : 0 ≤ (frac p).val := by rw [val_frac]; exact Int.fract_nonneg _

theorem frac_lt_one (p : NUM) : (frac p).val < 1 := by rw [val_frac]; exact Int.fract_lt_one _

@[simp] theorem val_clip (v lo hi : NUM) :
    (clip v lo hi).val = if v.val < lo.val then lo.val else if hi.val < v.val then hi.val else v.val := by
  unfold clip
  simp only [NUM.lt_iff]
  split
  · rfl
  · split <;> rfl

theorem clip_mem {lo hi : NUM} (h : lo.val ≤ hi.val) (v : NUM) :
    lo.val ≤ (clip v lo hi).val ∧ (clip v lo hi).val ≤ hi.val := by
  rw [val_clip]
  split
  · exact ⟨le_rfl, h⟩
  · split
    · exact ⟨h, le_rfl⟩
    · exact ⟨not_lt.1 ‹_›, not_lt.1 ‹_›⟩

theorem slotOf_lt {n : Nat} (h : 1 ≤ n) (a : Int) : slotOf n a < n := by
  have h0 : 0 ≤ a % (n : Int) := Int.emod_nonneg a (by omega)
  have h1 : a % (n : Int) < n := Int.emod_lt_of_pos a (by omega)
  unfold slotOf; omega

/-- The slot of a time index is its Euclidean remainder. -/
theorem slotOf_cast {n : Nat} (h : 1 ≤ n) (a : Int) : (slotOf n a : Int) = a % n :=
  Int.toNat_of_nonneg (Int.emod_nonneg a (by omega))

/-- Two time indices have one slot exactly when they differ by a multiple of the capacity. -/
theorem slotOf_eq_iff {n : Nat} (h : 1 ≤ n) (a b : Int) : slotOf n a = slotOf n b ↔ (n : Int) ∣ b - a := by
  rw [← Int.ofNat_inj, slotOf_cast h, slotOf_cast h]
  exact Int.emod_eq_emod_iff_emod_sub_eq_zero.trans
    ⟨fun e => by rw [← neg_sub]; exact (Int.dvd_neg).2 (Int.dvd_of_emod_eq_zero e),
      fun e => Int.emod_eq_zero_of_dvd (by rw [← neg_sub]; exact (Int.dvd_neg).2 e)⟩

end Sys2Proof.Machine
end

