-- ==== Sys2Proof/Laws/Encoding.lean ====
section
/-! SUPPORT. The command word as a number, and its fields. -/

namespace Sys2Proof

/-- The assembled word of 30_encoding.md R81 as a number. -/
theorem mkCmd_toNat (u o i s : Nat) :
    (mkCmd u o i s).toNat = u % 16 * 2 ^ 28 + o % 16 * 2 ^ 24 + i % 256 * 2 ^ 16 + s % 256 * 2 ^ 8 := by
  unfold mkCmd
  simp only [BitVec.toNat_append, BitVec.toNat_ofNat, Nat.shiftLeft_eq]
  rw [Nat.zero_mod, Nat.or_zero, ← Nat.shiftLeft_eq, ← Nat.shiftLeft_eq, ← Nat.shiftLeft_eq, ← Nat.shiftLeft_eq,
    ← Nat.shiftLeft_add_eq_or_of_lt (by omega), ← Nat.shiftLeft_add_eq_or_of_lt (by omega),
    ← Nat.shiftLeft_add_eq_or_of_lt (by omega)]
  simp only [Nat.shiftLeft_eq]
  omega

@[simp] theorem fieldUnit_mkCmd (u o i s : Nat) : fieldUnit (mkCmd u o i s) = u % 16 := by
  unfold fieldUnit cmdField; rw [mkCmd_toNat]; omega

@[simp] theorem fieldOp_mkCmd (u o i s : Nat) : fieldOp (mkCmd u o i s) = o % 16 := by
  unfold fieldOp cmdField; rw [mkCmd_toNat]; omega

@[simp] theorem fieldInst_mkCmd (u o i s : Nat) : fieldInst (mkCmd u o i s) = i % 256 := by
  unfold fieldInst cmdField; rw [mkCmd_toNat]; omega

@[simp] theorem fieldSel_mkCmd (u o i s : Nat) : fieldSel (mkCmd u o i s) = s % 256 := by
  unfold fieldSel cmdField; rw [mkCmd_toNat]; omega

@[simp] theorem fieldZero_mkCmd (u o i s : Nat) : fieldZero (mkCmd u o i s) = 0 := by
  unfold fieldZero cmdField; rw [mkCmd_toNat]; omega

/-- A word is its five fields put together. -/
theorem fields_toNat (w : CmdWord) :
    w.toNat = fieldUnit w * 2 ^ 28 + fieldOp w * 2 ^ 24 + fieldInst w * 2 ^ 16 + fieldSel w * 2 ^ 8 + fieldZero w := by
  have := w.isLt
  simp only [fieldUnit, fieldOp, fieldInst, fieldSel, fieldZero, cmdField]
  omega

/-- Each field is narrower than its width. -/
theorem fields_lt (w : CmdWord) :
    fieldUnit w < 16 ∧ fieldOp w < 16 ∧ fieldInst w < 256 ∧ fieldSel w < 256 ∧ fieldZero w < 256 := by
  refine ⟨?_, ?_, ?_, ?_, ?_⟩ <;> exact Nat.mod_lt _ (by decide)

end Sys2Proof
end

