-- ==== Sys2Proof/Laws/State.lean ====
section
/-! SUPPORT. One lemma per field of the state per update, true by unfolding, so that no proof unfolds a record update. -/

namespace Sys2Proof.Machine

variable (s : State)

/-! ## violate -/

@[simp] theorem State.log_cfg (vs : List Viol) : (s.log vs).cfg = s.cfg := rfl
@[simp] theorem State.log_blk (vs : List Viol) : (s.log vs).blk = s.blk := rfl
@[simp] theorem State.log_viol (vs : List Viol) : (s.log vs).viol = s.viol ++ vs := rfl
@[simp] theorem State.log_rvRan (vs : List Viol) : (s.log vs).rvRan = s.rvRan := rfl
@[simp] theorem State.log_gpRan (vs : List Viol) : (s.log vs).gpRan = s.gpRan := rfl
@[simp] theorem State.log_args (vs : List Viol) : (s.log vs).args = s.args := rfl
@[simp] theorem State.log_queue (vs : List Viol) : (s.log vs).queue = s.queue := rfl
@[simp] theorem State.log_outbox (vs : List Viol) : (s.log vs).outbox = s.outbox := rfl
@[simp] theorem State.log_idx (vs : List Viol) : (s.log vs).idx = s.idx := rfl

@[simp] theorem State.log_nil : s.log [] = s := by simp [State.log]

theorem State.log_log (vs ws : List Viol) : (s.log vs).log ws = s.log (vs ++ ws) := by simp [State.log]

/-! ## Register writes -/


@[simp] theorem State.setRb_cfg (k : Fin 25) (b : RingBuf) : (s.setRb k b).cfg = s.cfg := rfl
@[simp] theorem State.setRb_viol (k : Fin 25) (b : RingBuf) : (s.setRb k b).viol = s.viol := rfl
@[simp] theorem State.setRb_rvRan (k : Fin 25) (b : RingBuf) : (s.setRb k b).rvRan = s.rvRan := rfl
@[simp] theorem State.setRb_gpRan (k : Fin 25) (b : RingBuf) : (s.setRb k b).gpRan = s.gpRan := rfl
@[simp] theorem State.setRb_args (k : Fin 25) (b : RingBuf) : (s.setRb k b).args = s.args := rfl
@[simp] theorem State.setRb_queue (k : Fin 25) (b : RingBuf) : (s.setRb k b).queue = s.queue := rfl
@[simp] theorem State.setRb_outbox (k : Fin 25) (b : RingBuf) : (s.setRb k b).outbox = s.outbox := rfl
@[simp] theorem State.setRb_idx (k : Fin 25) (b : RingBuf) : (s.setRb k b).idx = s.idx := rfl
@[simp] theorem State.setRb_rb (k : Fin 25) (b : RingBuf) : (s.setRb k b).blk.rb = s.blk.rb.set k b := rfl
@[simp] theorem State.setRb_md (k : Fin 25) (b : RingBuf) : (s.setRb k b).blk.md = s.blk.md := rfl
@[simp] theorem State.setRb_ap (k : Fin 25) (b : RingBuf) : (s.setRb k b).blk.ap = s.blk.ap := rfl
@[simp] theorem State.setRb_bq (k : Fin 25) (b : RingBuf) : (s.setRb k b).blk.bq = s.blk.bq := rfl
@[simp] theorem State.setRb_gp (k : Fin 25) (b : RingBuf) : (s.setRb k b).blk.gp = s.blk.gp := rfl
@[simp] theorem State.setRb_rv (k : Fin 25) (b : RingBuf) : (s.setRb k b).blk.rv = s.blk.rv := rfl

@[simp] theorem State.setMd_cfg (k : Fin 24) (d : ModDelay) : (s.setMd k d).cfg = s.cfg := rfl
@[simp] theorem State.setMd_viol (k : Fin 24) (d : ModDelay) : (s.setMd k d).viol = s.viol := rfl
@[simp] theorem State.setMd_rvRan (k : Fin 24) (d : ModDelay) : (s.setMd k d).rvRan = s.rvRan := rfl
@[simp] theorem State.setMd_gpRan (k : Fin 24) (d : ModDelay) : (s.setMd k d).gpRan = s.gpRan := rfl
@[simp] theorem State.setMd_args (k : Fin 24) (d : ModDelay) : (s.setMd k d).args = s.args := rfl
@[simp] theorem State.setMd_queue (k : Fin 24) (d : ModDelay) : (s.setMd k d).queue = s.queue := rfl
@[simp] theorem State.setMd_outbox (k : Fin 24) (d : ModDelay) : (s.setMd k d).outbox = s.outbox := rfl
@[simp] theorem State.setMd_idx (k : Fin 24) (d : ModDelay) : (s.setMd k d).idx = s.idx := rfl
@[simp] theorem State.setMd_rb (k : Fin 24) (d : ModDelay) : (s.setMd k d).blk.rb = s.blk.rb := rfl
@[simp] theorem State.setMd_md (k : Fin 24) (d : ModDelay) : (s.setMd k d).blk.md = s.blk.md.set k d := rfl
@[simp] theorem State.setMd_ap (k : Fin 24) (d : ModDelay) : (s.setMd k d).blk.ap = s.blk.ap := rfl
@[simp] theorem State.setMd_bq (k : Fin 24) (d : ModDelay) : (s.setMd k d).blk.bq = s.blk.bq := rfl
@[simp] theorem State.setMd_gp (k : Fin 24) (d : ModDelay) : (s.setMd k d).blk.gp = s.blk.gp := rfl
@[simp] theorem State.setMd_rv (k : Fin 24) (d : ModDelay) : (s.setMd k d).blk.rv = s.blk.rv := rfl

@[simp] theorem State.setAp_cfg (k : Fin 20) (d : Allpass) : (s.setAp k d).cfg = s.cfg := rfl
@[simp] theorem State.setAp_viol (k : Fin 20) (d : Allpass) : (s.setAp k d).viol = s.viol := rfl
@[simp] theorem State.setAp_rvRan (k : Fin 20) (d : Allpass) : (s.setAp k d).rvRan = s.rvRan := rfl
@[simp] theorem State.setAp_gpRan (k : Fin 20) (d : Allpass) : (s.setAp k d).gpRan = s.gpRan := rfl
@[simp] theorem State.setAp_args (k : Fin 20) (d : Allpass) : (s.setAp k d).args = s.args := rfl
@[simp] theorem State.setAp_queue (k : Fin 20) (d : Allpass) : (s.setAp k d).queue = s.queue := rfl
@[simp] theorem State.setAp_outbox (k : Fin 20) (d : Allpass) : (s.setAp k d).outbox = s.outbox := rfl
@[simp] theorem State.setAp_idx (k : Fin 20) (d : Allpass) : (s.setAp k d).idx = s.idx := rfl
@[simp] theorem State.setAp_rb (k : Fin 20) (d : Allpass) : (s.setAp k d).blk.rb = s.blk.rb := rfl
@[simp] theorem State.setAp_md (k : Fin 20) (d : Allpass) : (s.setAp k d).blk.md = s.blk.md := rfl
@[simp] theorem State.setAp_ap (k : Fin 20) (d : Allpass) : (s.setAp k d).blk.ap = s.blk.ap.set k d := rfl
@[simp] theorem State.setAp_bq (k : Fin 20) (d : Allpass) : (s.setAp k d).blk.bq = s.blk.bq := rfl
@[simp] theorem State.setAp_gp (k : Fin 20) (d : Allpass) : (s.setAp k d).blk.gp = s.blk.gp := rfl
@[simp] theorem State.setAp_rv (k : Fin 20) (d : Allpass) : (s.setAp k d).blk.rv = s.blk.rv := rfl

@[simp] theorem State.setBq_cfg (k : Fin 4) (d : Biquad) : (s.setBq k d).cfg = s.cfg := rfl
@[simp] theorem State.setBq_viol (k : Fin 4) (d : Biquad) : (s.setBq k d).viol = s.viol := rfl
@[simp] theorem State.setBq_rvRan (k : Fin 4) (d : Biquad) : (s.setBq k d).rvRan = s.rvRan := rfl
@[simp] theorem State.setBq_gpRan (k : Fin 4) (d : Biquad) : (s.setBq k d).gpRan = s.gpRan := rfl
@[simp] theorem State.setBq_args (k : Fin 4) (d : Biquad) : (s.setBq k d).args = s.args := rfl
@[simp] theorem State.setBq_queue (k : Fin 4) (d : Biquad) : (s.setBq k d).queue = s.queue := rfl
@[simp] theorem State.setBq_outbox (k : Fin 4) (d : Biquad) : (s.setBq k d).outbox = s.outbox := rfl
@[simp] theorem State.setBq_idx (k : Fin 4) (d : Biquad) : (s.setBq k d).idx = s.idx := rfl
@[simp] theorem State.setBq_rb (k : Fin 4) (d : Biquad) : (s.setBq k d).blk.rb = s.blk.rb := rfl
@[simp] theorem State.setBq_md (k : Fin 4) (d : Biquad) : (s.setBq k d).blk.md = s.blk.md := rfl
@[simp] theorem State.setBq_ap (k : Fin 4) (d : Biquad) : (s.setBq k d).blk.ap = s.blk.ap := rfl
@[simp] theorem State.setBq_bq (k : Fin 4) (d : Biquad) : (s.setBq k d).blk.bq = s.blk.bq.set k d := rfl
@[simp] theorem State.setBq_gp (k : Fin 4) (d : Biquad) : (s.setBq k d).blk.gp = s.blk.gp := rfl
@[simp] theorem State.setBq_rv (k : Fin 4) (d : Biquad) : (s.setBq k d).blk.rv = s.blk.rv := rfl

@[simp] theorem State.setGp_cfg (g : Shifter) : (s.setGp g).cfg = s.cfg := rfl
@[simp] theorem State.setGp_viol (g : Shifter) : (s.setGp g).viol = s.viol := rfl
@[simp] theorem State.setGp_rvRan (g : Shifter) : (s.setGp g).rvRan = s.rvRan := rfl
@[simp] theorem State.setGp_gpRan (g : Shifter) : (s.setGp g).gpRan = s.gpRan := rfl
@[simp] theorem State.setGp_args (g : Shifter) : (s.setGp g).args = s.args := rfl
@[simp] theorem State.setGp_queue (g : Shifter) : (s.setGp g).queue = s.queue := rfl
@[simp] theorem State.setGp_outbox (g : Shifter) : (s.setGp g).outbox = s.outbox := rfl
@[simp] theorem State.setGp_idx (g : Shifter) : (s.setGp g).idx = s.idx := rfl
@[simp] theorem State.setGp_rb (g : Shifter) : (s.setGp g).blk.rb = s.blk.rb := rfl
@[simp] theorem State.setGp_md (g : Shifter) : (s.setGp g).blk.md = s.blk.md := rfl
@[simp] theorem State.setGp_ap (g : Shifter) : (s.setGp g).blk.ap = s.blk.ap := rfl
@[simp] theorem State.setGp_bq (g : Shifter) : (s.setGp g).blk.bq = s.blk.bq := rfl
@[simp] theorem State.setGp_gp (g : Shifter) : (s.setGp g).blk.gp = g := rfl
@[simp] theorem State.setGp_rv (g : Shifter) : (s.setGp g).blk.rv = s.blk.rv := rfl

@[simp] theorem State.setRv_cfg (e : Engine) : (s.setRv e).cfg = s.cfg := rfl
@[simp] theorem State.setRv_viol (e : Engine) : (s.setRv e).viol = s.viol := rfl
@[simp] theorem State.setRv_rvRan (e : Engine) : (s.setRv e).rvRan = s.rvRan := rfl
@[simp] theorem State.setRv_gpRan (e : Engine) : (s.setRv e).gpRan = s.gpRan := rfl
@[simp] theorem State.setRv_args (e : Engine) : (s.setRv e).args = s.args := rfl
@[simp] theorem State.setRv_queue (e : Engine) : (s.setRv e).queue = s.queue := rfl
@[simp] theorem State.setRv_outbox (e : Engine) : (s.setRv e).outbox = s.outbox := rfl
@[simp] theorem State.setRv_idx (e : Engine) : (s.setRv e).idx = s.idx := rfl
@[simp] theorem State.setRv_rb (e : Engine) : (s.setRv e).blk.rb = s.blk.rb := rfl
@[simp] theorem State.setRv_md (e : Engine) : (s.setRv e).blk.md = s.blk.md := rfl
@[simp] theorem State.setRv_ap (e : Engine) : (s.setRv e).blk.ap = s.blk.ap := rfl
@[simp] theorem State.setRv_bq (e : Engine) : (s.setRv e).blk.bq = s.blk.bq := rfl
@[simp] theorem State.setRv_gp (e : Engine) : (s.setRv e).blk.gp = s.blk.gp := rfl
@[simp] theorem State.setRv_rv (e : Engine) : (s.setRv e).blk.rv = e := rfl

/-! ## The end of an operation -/

@[simp] theorem State.answer_cfg (r0 : Option NUM) (x0 x1 : List NUM) : (s.answer r0 x0 x1).cfg = s.cfg := rfl
@[simp] theorem State.answer_blk (r0 : Option NUM) (x0 x1 : List NUM) : (s.answer r0 x0 x1).blk = s.blk := rfl
@[simp] theorem State.answer_viol (r0 : Option NUM) (x0 x1 : List NUM) : (s.answer r0 x0 x1).viol = s.viol := rfl
@[simp] theorem State.answer_rvRan (r0 : Option NUM) (x0 x1 : List NUM) : (s.answer r0 x0 x1).rvRan = s.rvRan := rfl
@[simp] theorem State.answer_gpRan (r0 : Option NUM) (x0 x1 : List NUM) : (s.answer r0 x0 x1).gpRan = s.gpRan := rfl
@[simp] theorem State.answer_args (r0 : Option NUM) (x0 x1 : List NUM) : (s.answer r0 x0 x1).args = Operands.none := rfl
@[simp] theorem State.answer_queue (r0 : Option NUM) (x0 x1 : List NUM) : (s.answer r0 x0 x1).queue = s.queue := rfl
@[simp] theorem State.answer_outbox (r0 : Option NUM) (x0 x1 : List NUM) :
    (s.answer r0 x0 x1).outbox = s.outbox ++ [mkResponse s.cfg.blockSize s.idx r0 x0 x1] := rfl
@[simp] theorem State.answer_idx (r0 : Option NUM) (x0 x1 : List NUM) : (s.answer r0 x0 x1).idx = s.idx + 1 := rfl

@[simp] theorem State.done_cfg  : (s.done).cfg = s.cfg := rfl
@[simp] theorem State.done_blk  : (s.done).blk = s.blk := rfl
@[simp] theorem State.done_viol  : (s.done).viol = s.viol := rfl
@[simp] theorem State.done_rvRan  : (s.done).rvRan = s.rvRan := rfl
@[simp] theorem State.done_gpRan  : (s.done).gpRan = s.gpRan := rfl
@[simp] theorem State.done_args  : (s.done).args = Operands.none := rfl
@[simp] theorem State.done_queue  : (s.done).queue = s.queue := rfl
@[simp] theorem State.done_outbox  : (s.done).outbox = s.outbox ++ [mkResponse s.cfg.blockSize s.idx none [] []] := rfl
@[simp] theorem State.done_idx  : (s.done).idx = s.idx + 1 := rfl

@[simp] theorem State.refuse_cfg (v : Viol) : (s.refuse v).cfg = s.cfg := rfl
@[simp] theorem State.refuse_blk (v : Viol) : (s.refuse v).blk = s.blk := rfl
@[simp] theorem State.refuse_viol (v : Viol) : (s.refuse v).viol = s.viol ++ [v] := rfl
@[simp] theorem State.refuse_rvRan (v : Viol) : (s.refuse v).rvRan = s.rvRan := rfl
@[simp] theorem State.refuse_gpRan (v : Viol) : (s.refuse v).gpRan = s.gpRan := rfl
@[simp] theorem State.refuse_args (v : Viol) : (s.refuse v).args = Operands.none := rfl
@[simp] theorem State.refuse_queue (v : Viol) : (s.refuse v).queue = s.queue := rfl
@[simp] theorem State.refuse_outbox (v : Viol) : (s.refuse v).outbox = s.outbox ++ [mkResponse s.cfg.blockSize s.idx none [] []] := rfl
@[simp] theorem State.refuse_idx (v : Viol) : (s.refuse v).idx = s.idx + 1 := rfl

/-! ## Taking a packet -/

@[simp] theorem State.take_cfg (p : Packet) (rest : List Packet) : (s.take p rest).cfg = s.cfg := rfl
@[simp] theorem State.take_blk (p : Packet) (rest : List Packet) : (s.take p rest).blk = s.blk := rfl
@[simp] theorem State.take_viol (p : Packet) (rest : List Packet) : (s.take p rest).viol = s.viol := rfl
@[simp] theorem State.take_rvRan (p : Packet) (rest : List Packet) : (s.take p rest).rvRan = s.rvRan := rfl
@[simp] theorem State.take_gpRan (p : Packet) (rest : List Packet) : (s.take p rest).gpRan = s.gpRan := rfl
@[simp] theorem State.take_args (p : Packet) (rest : List Packet) : (s.take p rest).args = p.args := rfl
@[simp] theorem State.take_queue (p : Packet) (rest : List Packet) : (s.take p rest).queue = rest := rfl
@[simp] theorem State.take_outbox (p : Packet) (rest : List Packet) : (s.take p rest).outbox = s.outbox := rfl
@[simp] theorem State.take_idx (p : Packet) (rest : List Packet) : (s.take p rest).idx = s.idx := rfl

/-! ## The ownership record -/


/-- The record CV_OWNED changes the ghost log only. -/
theorem State.engineOwned_eq (i : Instr) : s.engineOwned i = s.log (if s.rvRan then [.owned i] else []) := by
  unfold State.engineOwned; split <;> simp

/-- The record CV_OWNED of a ring buffer changes the ghost log only. -/
theorem State.bufferOwned_eq (r : Fin 25) (i : Instr) :
    s.bufferOwned r i = s.log (if (if r = 24 then s.gpRan else s.rvRan) then [.owned i] else []) := by
  unfold State.bufferOwned; rw [State.engineOwned_eq]; split
  · split <;> simp
  · rfl

@[simp] theorem State.engineOwned_cfg (i : Instr) : (s.engineOwned i).cfg = s.cfg := by rw [State.engineOwned_eq]; rfl
@[simp] theorem State.engineOwned_blk (i : Instr) : (s.engineOwned i).blk = s.blk := by rw [State.engineOwned_eq]; rfl
@[simp] theorem State.engineOwned_rvRan (i : Instr) : (s.engineOwned i).rvRan = s.rvRan := by rw [State.engineOwned_eq]; rfl
@[simp] theorem State.engineOwned_gpRan (i : Instr) : (s.engineOwned i).gpRan = s.gpRan := by rw [State.engineOwned_eq]; rfl
@[simp] theorem State.engineOwned_args (i : Instr) : (s.engineOwned i).args = s.args := by rw [State.engineOwned_eq]; rfl
@[simp] theorem State.engineOwned_queue (i : Instr) : (s.engineOwned i).queue = s.queue := by rw [State.engineOwned_eq]; rfl
@[simp] theorem State.engineOwned_outbox (i : Instr) : (s.engineOwned i).outbox = s.outbox := by rw [State.engineOwned_eq]; rfl
@[simp] theorem State.engineOwned_idx (i : Instr) : (s.engineOwned i).idx = s.idx := by rw [State.engineOwned_eq]; rfl

@[simp] theorem State.bufferOwned_cfg (r : Fin 25) (i : Instr) : (s.bufferOwned r i).cfg = s.cfg := by rw [State.bufferOwned_eq]; rfl
@[simp] theorem State.bufferOwned_blk (r : Fin 25) (i : Instr) : (s.bufferOwned r i).blk = s.blk := by rw [State.bufferOwned_eq]; rfl
@[simp] theorem State.bufferOwned_rvRan (r : Fin 25) (i : Instr) : (s.bufferOwned r i).rvRan = s.rvRan := by rw [State.bufferOwned_eq]; rfl
@[simp] theorem State.bufferOwned_gpRan (r : Fin 25) (i : Instr) : (s.bufferOwned r i).gpRan = s.gpRan := by rw [State.bufferOwned_eq]; rfl
@[simp] theorem State.bufferOwned_args (r : Fin 25) (i : Instr) : (s.bufferOwned r i).args = s.args := by rw [State.bufferOwned_eq]; rfl
@[simp] theorem State.bufferOwned_queue (r : Fin 25) (i : Instr) : (s.bufferOwned r i).queue = s.queue := by rw [State.bufferOwned_eq]; rfl
@[simp] theorem State.bufferOwned_outbox (r : Fin 25) (i : Instr) : (s.bufferOwned r i).outbox = s.outbox := by
  rw [State.bufferOwned_eq]; rfl
@[simp] theorem State.bufferOwned_idx (r : Fin 25) (i : Instr) : (s.bufferOwned r i).idx = s.idx := by rw [State.bufferOwned_eq]; rfl

/-! ## UpdateAll -/


@[simp] theorem State.updateAll_cfg : s.updateAll.cfg = s.cfg := by simp only [State.updateAll]
@[simp] theorem State.updateAll_rvRan : s.updateAll.rvRan = s.rvRan := by simp only [State.updateAll]
@[simp] theorem State.updateAll_gpRan : s.updateAll.gpRan = s.gpRan := by simp only [State.updateAll]
@[simp] theorem State.updateAll_args : s.updateAll.args = s.args := by simp only [State.updateAll]
@[simp] theorem State.updateAll_queue : s.updateAll.queue = s.queue := by simp only [State.updateAll]
@[simp] theorem State.updateAll_outbox : s.updateAll.outbox = s.outbox := by simp only [State.updateAll]
@[simp] theorem State.updateAll_idx : s.updateAll.idx = s.idx := by simp only [State.updateAll]
@[simp] theorem State.updateAll_rb : s.updateAll.blk.rb = s.blk.rb := by simp only [State.updateAll]
@[simp] theorem State.updateAll_md : s.updateAll.blk.md = Vector.ofFn (updatedDelay s) := by simp only [State.updateAll]
@[simp] theorem State.updateAll_gp : s.updateAll.blk.gp = s.blk.gp := by simp only [State.updateAll]
@[simp] theorem State.updateAll_rv : s.updateAll.blk.rv = updatedEngine s := by simp only [State.updateAll]
@[simp] theorem State.updateAll_ap (a : Fin 20) : s.updateAll.blk.ap[a.val]
    = { s.blk.ap[a.val] with fb := stageFeedback s.cfg (tankFeedback (s.param .diffuse)) a } := by
  simp only [State.updateAll, Fin.getElem_fin, Vector.getElem_ofFn]
@[simp] theorem State.updateAll_bq (q : Fin 4) : s.updateAll.blk.bq[q.val]
    = ({ s.blk.bq[q.val] with freq := s.param (cutParam q) } : Biquad).update s.cfg.design := by
  simp only [State.updateAll, Fin.getElem_fin, Vector.getElem_ofFn]
@[simp] theorem State.updateAll_viol : s.updateAll.viol
    = s.viol ++ (List.finRange 20).flatMap fun a =>
        fbViol a (stageFeedback s.cfg (tankFeedback (s.param .diffuse)) a) := by
  simp only [State.updateAll]

/-! ## A parameter register -/

@[simp] theorem State.setParam_cfg (id : ParamId) (v : NUM) : (s.setParam id v).cfg = s.cfg := rfl
@[simp] theorem State.setParam_viol (id : ParamId) (v : NUM) : (s.setParam id v).viol = s.viol := rfl
@[simp] theorem State.setParam_rvRan (id : ParamId) (v : NUM) : (s.setParam id v).rvRan = s.rvRan := rfl
@[simp] theorem State.setParam_gpRan (id : ParamId) (v : NUM) : (s.setParam id v).gpRan = s.gpRan := rfl
@[simp] theorem State.setParam_args (id : ParamId) (v : NUM) : (s.setParam id v).args = s.args := rfl
@[simp] theorem State.setParam_queue (id : ParamId) (v : NUM) : (s.setParam id v).queue = s.queue := rfl
@[simp] theorem State.setParam_outbox (id : ParamId) (v : NUM) : (s.setParam id v).outbox = s.outbox := rfl
@[simp] theorem State.setParam_idx (id : ParamId) (v : NUM) : (s.setParam id v).idx = s.idx := rfl
@[simp] theorem State.setParam_rb (id : ParamId) (v : NUM) : (s.setParam id v).blk.rb = s.blk.rb := rfl
@[simp] theorem State.setParam_md (id : ParamId) (v : NUM) : (s.setParam id v).blk.md = s.blk.md := rfl
@[simp] theorem State.setParam_ap (id : ParamId) (v : NUM) : (s.setParam id v).blk.ap = s.blk.ap := rfl
@[simp] theorem State.setParam_bq (id : ParamId) (v : NUM) : (s.setParam id v).blk.bq = s.blk.bq := rfl
@[simp] theorem State.setParam_gp (id : ParamId) (v : NUM) : (s.setParam id v).blk.gp = s.blk.gp := rfl
@[simp] theorem State.setParam_p (id : ParamId) (v : NUM) :
    (s.setParam id v).blk.rv.p = s.blk.rv.p.set id.idx v := rfl

/-! ## The fields of a delay and of a filter -/

variable (d : ModDelay) (f : Biquad)

@[simp] theorem ModDelay.advance_delaySamples (l : Nat) : (d.advance l).delaySamples = d.delaySamples := rfl
@[simp] theorem ModDelay.advance_modRate (l : Nat) : (d.advance l).modRate = d.modRate := rfl
@[simp] theorem ModDelay.advance_modAmount (l : Nat) : (d.advance l).modAmount = d.modAmount := rfl
@[simp] theorem ModDelay.advance_interp (l : Nat) : (d.advance l).interp = d.interp := rfl
@[simp] theorem ModDelay.advance_phase (l : Nat) : (d.advance l).phase = frac (d.phase.add (d.modRate.mul (.ofNat l))) := rfl
@[simp] theorem ModDelay.advance_out (l : Nat) : (d.advance l).out = d.out := rfl
@[simp] theorem ModDelay.setParams_phase (n : Int) (r a : NUM) (i : Bool) : (d.setParams n r a i).phase = d.phase := rfl
@[simp] theorem ModDelay.setParams_out (n : Int) (r a : NUM) (i : Bool) : (d.setParams n r a i).out = d.out := rfl
@[simp] theorem Biquad.update_type (c : Design) : (f.update c).type = f.type := rfl
@[simp] theorem Biquad.update_freq (c : Design) : (f.update c).freq = f.freq := rfl
@[simp] theorem Biquad.update_fs (c : Design) : (f.update c).fs = f.fs := rfl
@[simp] theorem Biquad.update_coeffs (c : Design) : (f.update c).coeffs = designCoeffs c f.type f.freq f.fs := rfl
@[simp] theorem Biquad.shift_type (x y : NUM) : (f.shift x y).type = f.type := rfl
@[simp] theorem Biquad.shift_freq (x y : NUM) : (f.shift x y).freq = f.freq := rfl
@[simp] theorem Biquad.shift_fs (x y : NUM) : (f.shift x y).fs = f.fs := rfl
@[simp] theorem Biquad.shift_coeffs (x y : NUM) : (f.shift x y).coeffs = f.coeffs := rfl

end Sys2Proof.Machine
end

