-- ==== Sys2Proof/Laws/Memory.lean ====
section
/-! SUPPORT. Sample storage: a read after a write, and the canonical form, which every memory operation keeps. -/

namespace Sys2Proof.Machine

/-- Every listed slot of `m` is above `i`. -/
def Memory.above (i : Nat) (m : Memory) : Prop := ∀ c ∈ m, i < c.1

theorem Memory.wf_cons {n i : Nat} {v : NUM} {m : Memory} :
    Memory.wf n ((i, v) :: m) = true ↔ i < n ∧ v.val ≠ 0 ∧ Memory.above i m ∧ Memory.wf n m = true := by
  simp [Memory.wf, Memory.above, and_assoc, ← Bool.not_eq_true]

@[simp] theorem Memory.wf_nil (n : Nat) : Memory.wf n [] = true := rfl

/-- A slot below every listed one reads 0. -/
theorem Memory.read_of_above {i : Nat} {m : Memory} (h : Memory.above i m) : Memory.read i m = .rat 0 := by
  induction m with
  | nil => rfl
  | cons c m ih =>
    obtain ⟨j, u⟩ := c
    have hj : i < j := h (j, u) (by simp)
    rw [Memory.read, if_neg (by omega)]
    exact ih fun c hc => h c (by simp [hc])

theorem Memory.above_mono {i j : Nat} {m : Memory} (hij : i ≤ j) (h : Memory.above j m) : Memory.above i m :=
  fun c hc => lt_of_le_of_lt hij (h c hc)

theorem Memory.above_write {i j : Nat} {v : NUM} {m : Memory} (hij : j < i) (h : Memory.above j m) :
    Memory.above j (Memory.write i v m) := by
  induction m with
  | nil => unfold Memory.write; split <;> simp [Memory.above, hij]
  | cons c m ih =>
    obtain ⟨k, u⟩ := c
    have hk : j < k := h (k, u) (by simp)
    have hm : Memory.above j m := fun c hc => h c (by simp [hc])
    rw [Memory.write]
    intro c hc
    split at hc
    · split at hc
      · exact h c hc
      · rcases List.mem_cons.1 hc with rfl | hc
        · exact hij
        · exact h c hc
    · split at hc
      · split at hc
        · exact hm c hc
        · rcases List.mem_cons.1 hc with rfl | hc
          · exact hij
          · exact hm c hc
      · rcases List.mem_cons.1 hc with rfl | hc
        · exact hk
        · exact ih hm c hc

/-- A write keeps the canonical form. -/
theorem Memory.wf_write {n i : Nat} {v : NUM} {m : Memory} (hi : i < n) (h : Memory.wf n m = true) :
    Memory.wf n (Memory.write i v m) = true := by
  induction m with
  | nil =>
    unfold Memory.write
    split
    · rfl
    · exact Memory.wf_cons.2 ⟨hi, fun hz => ‹¬_› ((NUM.isZero_iff v).2 hz), by simp [Memory.above], rfl⟩
  | cons c m ih =>
    obtain ⟨k, u⟩ := c
    obtain ⟨hk, hu, ha, hm⟩ := Memory.wf_cons.1 h
    rw [Memory.write]
    split
    · rename_i hik
      split
      · exact h
      · refine Memory.wf_cons.2 ⟨hi, fun hz => ‹¬_› ((NUM.isZero_iff v).2 hz), ?_, h⟩
        intro c hc
        rcases List.mem_cons.1 hc with rfl | hc
        · exact hik
        · exact lt_trans hik (ha c hc)
    · split
      · rename_i hik
        subst hik
        split
        · exact hm
        · exact Memory.wf_cons.2 ⟨hi, fun hz => ‹¬v.isZero = true› ((NUM.isZero_iff v).2 hz), ha, hm⟩
      · exact Memory.wf_cons.2 ⟨hk, hu, Memory.above_write (by omega) ha, ih hm⟩

/-- A read after a write: the value written at its slot, what was there before at every other slot. A slot that is not
listed holds 0 as the rational number. -/
theorem Memory.read_write {n i : Nat} {v : NUM} {m : Memory} (h : Memory.wf n m = true) (j : Nat) :
    Memory.read j (Memory.write i v m) = if j = i then (if v.isZero then .rat 0 else v) else Memory.read j m := by
  induction m with
  | nil =>
    unfold Memory.write
    split
    · simp [Memory.read]
    · rfl
  | cons c m ih =>
    obtain ⟨k, u⟩ := c
    obtain ⟨-, -, ha, hm⟩ := Memory.wf_cons.1 h
    rw [Memory.write]
    by_cases hik : i < k
    · rw [if_pos hik]
      by_cases hv : v.isZero
      · rw [if_pos hv, if_pos hv]
        split
        · rename_i hj
          subst hj
          rw [Memory.read, if_neg (by omega)]
          exact Memory.read_of_above (Memory.above_mono (by omega) ha)
        · rfl
      · rw [if_neg hv, if_neg hv, Memory.read]
    · rw [if_neg hik]
      by_cases hik' : i = k
      · subst hik'
        rw [if_pos rfl]
        by_cases hv : v.isZero
        · rw [if_pos hv, if_pos hv]
          by_cases hj : j = i
          · subst hj; rw [if_pos rfl]; exact Memory.read_of_above ha
          · rw [if_neg hj, Memory.read, if_neg hj]
        · rw [if_neg hv, if_neg hv]
          simp only [Memory.read]
          split <;> rfl
      · rw [if_neg hik']
        simp only [Memory.read]
        by_cases hj : j = k
        · subst hj; rw [if_pos rfl, if_pos rfl, if_neg (by omega)]
        · rw [if_neg hj, if_neg hj]; exact ih hm

/-! ## Ring buffers -/

@[simp] theorem rbWrite_wc (p : Params) (r : Fin 25) (b : RingBuf) (v : NUM) : (rbWrite p r b v).wc = b.wc + 1 := rfl

@[simp] theorem rbWrite_data (p : Params) (r : Fin 25) (b : RingBuf) (v : NUM) :
    (rbWrite p r b v).data = b.data.write (slotOf p.rbCap[r] b.wc) (quantise p.quant v) := rfl

/-- A block write advances the cursor by the length of the block. -/
@[simp] theorem rbWrite_foldl_wc (p : Params) (r : Fin 25) (x : List NUM) (b : RingBuf) :
    (x.foldl (rbWrite p r) b).wc = b.wc + x.length := by
  induction x generalizing b with
  | nil => rfl
  | cons v x ih => rw [List.foldl_cons, ih, rbWrite_wc, List.length_cons]; omega

/-- `RbWrite` keeps the canonical form. -/
theorem rbWrite_wf {p : Params} {r : Fin 25} {b : RingBuf} (v : NUM) (hn : 1 ≤ p.rbCap[r])
    (h : Memory.wf p.rbCap[r] b.data = true) : Memory.wf p.rbCap[r] (rbWrite p r b v).data = true := by
  rw [rbWrite_data]; exact Memory.wf_write (slotOf_lt hn _) h

/-- A block write keeps the canonical form. -/
theorem rbWrite_foldl_wf {p : Params} {r : Fin 25} (x : List NUM) {b : RingBuf} (hn : 1 ≤ p.rbCap[r])
    (h : Memory.wf p.rbCap[r] b.data = true) : Memory.wf p.rbCap[r] (x.foldl (rbWrite p r) b).data = true := by
  induction x generalizing b with
  | nil => exact h
  | cons v x ih => exact ih (rbWrite_wf v hn h)

/-- What a slot that is not written holds after `RbWrite`: what it held, the very expression. -/
theorem memRead_rbWrite_of_ne {p : Params} {r : Fin 25} {b : RingBuf} {v : NUM} {j : Nat}
    (h : Memory.wf p.rbCap[r] b.data = true) (hj : j ≠ slotOf p.rbCap[r] b.wc) :
    memRead (rbWrite p r b v) j = memRead b j := by
  rw [memRead, rbWrite_data, Memory.read_write h, if_neg hj]; rfl

/-- The number a slot holds after `RbWrite`. -/
theorem memRead_rbWrite {p : Params} {r : Fin 25} {b : RingBuf} (v : NUM) (h : Memory.wf p.rbCap[r] b.data = true)
    (j : Nat) :
    (memRead (rbWrite p r b v) j).val =
      if j = slotOf p.rbCap[r] b.wc then (quantise p.quant v).val else (memRead b j).val := by
  rw [memRead, rbWrite_data, Memory.read_write h]
  split
  · split
    · rename_i hz; rw [(NUM.isZero_iff _).1 hz, NUM.val_rat, Rat.cast_zero]
    · rfl
  · rfl

/-- The number an interpolating read results in (40_ring_buffer.md R102). -/
theorem val_rbRead (p : Params) (r : Fin 25) (b : RingBuf) (pos : NUM) :
    (rbRead p r b pos).val = (memRead b (slotOf p.rbCap[r] ⌊pos.val⌋)).val * (1 - Int.fract pos.val) +
      (memRead b (slotOf p.rbCap[r] ⌈pos.val⌉)).val * Int.fract pos.val := by simp [rbRead]

/-- At an integer position the interpolating read is the slot's sample (40_ring_buffer.md R102). -/
theorem rbRead_ofInt (p : Params) (r : Fin 25) (b : RingBuf) {pos : NUM} {t : Int} (h : pos.val = t) :
    (rbRead p r b pos).val = (memRead b (slotOf p.rbCap[r] t)).val := by simp [val_rbRead, h]

/-- The storage is in its canonical form after reset, for every construction with positive capacities. -/
theorem resetWith_memoryCanonical_data (p : Params) (r : Fin 25) :
    Memory.wf p.rbCap[r] (State.resetWith p).blk.rb[r].data = true := by
  simp [State.resetWith, Block.reset]

end Sys2Proof.Machine
end

