-- ==== Sys2Proof/Laws/PerInstr.lean ====
section
/-! SUPPORT. The law `TableMatch`, one lemma per instruction: the bits of its word under the mask of its row of the table of
30_encoding.md R94 are the row's match. -/

namespace Sys2Proof.Laws.TableMatch

/-- The columns `match` and `mask` of R94. -/
def row : Instr → CmdWord × CmdWord
  | .rbWrite _ => (0x10000000, 0xFF00FFFF)
  | .rbRead _ => (0x11000000, 0xFF00FFFF)
  | .mdSetp _ => (0x20000000, 0xFF00FFFF)
  | .mdProc _ => (0x21000000, 0xFF00FFFF)
  | .mdGeto _ => (0x22000000, 0xFF00FFFF)
  | .apSetp _ => (0x30000000, 0xFF00FFFF)
  | .apSetfb _ => (0x31000000, 0xFF00FFFF)
  | .apProc _ => (0x32000000, 0xFF00FFFF)
  | .apGeto _ => (0x33000000, 0xFF00FFFF)
  | .bqSettype _ _ => (0x40000000, 0xFF0000FF)
  | .bqSetfreq _ => (0x41000000, 0xFF00FFFF)
  | .bqSetfs _ => (0x42000000, 0xFF00FFFF)
  | .bqUpdate _ => (0x43000000, 0xFF00FFFF)
  | .bqProc _ => (0x44000000, 0xFF00FFFF)
  | .rvSetDecay => (0x50000000, 0xFFFFFFFF)
  | .rvSetSizeEarly => (0x50000100, 0xFFFFFFFF)
  | .rvSetSizeLate => (0x50000200, 0xFFFFFFFF)
  | .rvSetDiffuse => (0x50000300, 0xFFFFFFFF)
  | .rvSetLowCutPre => (0x50000400, 0xFFFFFFFF)
  | .rvSetHighCutPre => (0x50000500, 0xFFFFFFFF)
  | .rvSetModulate => (0x50000600, 0xFFFFFFFF)
  | .rvSetMix => (0x50000700, 0xFFFFFFFF)
  | .rvSetEarlyStages => (0x50000800, 0xFFFFFFFF)
  | .rvSetInterpolation => (0x50000900, 0xFFFFFFFF)
  | .rvSetFreeze => (0x50000A00, 0xFFFFFFFF)
  | .rvSetLowCutPost => (0x50000B00, 0xFFFFFFFF)
  | .rvSetHighCutPost => (0x50000C00, 0xFFFFFFFF)
  | .rvUpdateall => (0x51000000, 0xFFFFFFFF)
  | .rvProc => (0x52000000, 0xFFFFFFFF)
  | .gpSetspeed => (0x60000000, 0xFFFFFFFF)
  | .gpSeed => (0x61000000, 0xFFFFFFFF)
  | .gpProc => (0x62000000, 0xFFFFFFFF)

/-- The word of `i`, under its row's mask, is its row's match. -/
def Statement (i : Instr) : Prop := encode i &&& (row i).2 = (row i).1

theorem rbWrite (r : Nat) : Statement (.rbWrite r) := by
  show mkCmd 1 0 r 0 &&& 0xFF00FFFF = 0x10000000
  unfold mkCmd; generalize BitVec.ofNat 8 r = x; clear r; revert x; decide
theorem rbRead (r : Nat) : Statement (.rbRead r) := by
  show mkCmd 1 1 r 0 &&& 0xFF00FFFF = 0x11000000
  unfold mkCmd; generalize BitVec.ofNat 8 r = x; clear r; revert x; decide
theorem mdSetp (m : Nat) : Statement (.mdSetp m) := by
  show mkCmd 2 0 m 0 &&& 0xFF00FFFF = 0x20000000
  unfold mkCmd; generalize BitVec.ofNat 8 m = x; clear m; revert x; decide
theorem mdProc (m : Nat) : Statement (.mdProc m) := by
  show mkCmd 2 1 m 0 &&& 0xFF00FFFF = 0x21000000
  unfold mkCmd; generalize BitVec.ofNat 8 m = x; clear m; revert x; decide
theorem mdGeto (m : Nat) : Statement (.mdGeto m) := by
  show mkCmd 2 2 m 0 &&& 0xFF00FFFF = 0x22000000
  unfold mkCmd; generalize BitVec.ofNat 8 m = x; clear m; revert x; decide
theorem apSetp (a : Nat) : Statement (.apSetp a) := by
  show mkCmd 3 0 a 0 &&& 0xFF00FFFF = 0x30000000
  unfold mkCmd; generalize BitVec.ofNat 8 a = x; clear a; revert x; decide
theorem apSetfb (a : Nat) : Statement (.apSetfb a) := by
  show mkCmd 3 1 a 0 &&& 0xFF00FFFF = 0x31000000
  unfold mkCmd; generalize BitVec.ofNat 8 a = x; clear a; revert x; decide
theorem apProc (a : Nat) : Statement (.apProc a) := by
  show mkCmd 3 2 a 0 &&& 0xFF00FFFF = 0x32000000
  unfold mkCmd; generalize BitVec.ofNat 8 a = x; clear a; revert x; decide
theorem apGeto (a : Nat) : Statement (.apGeto a) := by
  show mkCmd 3 3 a 0 &&& 0xFF00FFFF = 0x33000000
  unfold mkCmd; generalize BitVec.ofNat 8 a = x; clear a; revert x; decide
theorem bqSettype (q : Nat) (t : FilterType) : Statement (.bqSettype q t) := by
  show mkCmd 4 0 q t.code &&& 0xFF0000FF = 0x40000000
  unfold mkCmd; generalize BitVec.ofNat 8 q = x; clear q; cases t <;> revert x <;> decide
theorem bqSetfreq (q : Nat) : Statement (.bqSetfreq q) := by
  show mkCmd 4 1 q 0 &&& 0xFF00FFFF = 0x41000000
  unfold mkCmd; generalize BitVec.ofNat 8 q = x; clear q; revert x; decide
theorem bqSetfs (q : Nat) : Statement (.bqSetfs q) := by
  show mkCmd 4 2 q 0 &&& 0xFF00FFFF = 0x42000000
  unfold mkCmd; generalize BitVec.ofNat 8 q = x; clear q; revert x; decide
theorem bqUpdate (q : Nat) : Statement (.bqUpdate q) := by
  show mkCmd 4 3 q 0 &&& 0xFF00FFFF = 0x43000000
  unfold mkCmd; generalize BitVec.ofNat 8 q = x; clear q; revert x; decide
theorem bqProc (q : Nat) : Statement (.bqProc q) := by
  show mkCmd 4 4 q 0 &&& 0xFF00FFFF = 0x44000000
  unfold mkCmd; generalize BitVec.ofNat 8 q = x; clear q; revert x; decide
theorem rvSetDecay : Statement .rvSetDecay := by unfold Statement; decide
theorem rvSetSizeEarly : Statement .rvSetSizeEarly := by unfold Statement; decide
theorem rvSetSizeLate : Statement .rvSetSizeLate := by unfold Statement; decide
theorem rvSetDiffuse : Statement .rvSetDiffuse := by unfold Statement; decide
theorem rvSetLowCutPre : Statement .rvSetLowCutPre := by unfold Statement; decide
theorem rvSetHighCutPre : Statement .rvSetHighCutPre := by unfold Statement; decide
theorem rvSetModulate : Statement .rvSetModulate := by unfold Statement; decide
theorem rvSetMix : Statement .rvSetMix := by unfold Statement; decide
theorem rvSetEarlyStages : Statement .rvSetEarlyStages := by unfold Statement; decide
theorem rvSetInterpolation : Statement .rvSetInterpolation := by unfold Statement; decide
theorem rvSetFreeze : Statement .rvSetFreeze := by unfold Statement; decide
theorem rvSetLowCutPost : Statement .rvSetLowCutPost := by unfold Statement; decide
theorem rvSetHighCutPost : Statement .rvSetHighCutPost := by unfold Statement; decide
theorem rvUpdateall : Statement .rvUpdateall := by unfold Statement; decide
theorem rvProc : Statement .rvProc := by unfold Statement; decide
theorem gpSetspeed : Statement .gpSetspeed := by unfold Statement; decide
theorem gpSeed : Statement .gpSeed := by unfold Statement; decide
theorem gpProc : Statement .gpProc := by unfold Statement; decide

end Sys2Proof.Laws.TableMatch
end

