-- ==== Sys2Proof/Laws/Units.lean ====
section
/-! SUPPORT. What the unit operations (MD.PROC, AP.PROC, BQ.PROC, GP.PROC and the engine's steps) do to each field. -/

namespace Sys2Proof.Machine

variable (s : State)

/-! ## MD.PROC -/

@[simp] theorem State.mdProc_cfg (m : Fin 24) (x : List NUM) : (s.mdProc m x).cfg = s.cfg := rfl
@[simp] theorem State.mdProc_rvRan (m : Fin 24) (x : List NUM) : (s.mdProc m x).rvRan = s.rvRan := rfl
@[simp] theorem State.mdProc_gpRan (m : Fin 24) (x : List NUM) : (s.mdProc m x).gpRan = s.gpRan := rfl
@[simp] theorem State.mdProc_args (m : Fin 24) (x : List NUM) : (s.mdProc m x).args = s.args := rfl
@[simp] theorem State.mdProc_queue (m : Fin 24) (x : List NUM) : (s.mdProc m x).queue = s.queue := rfl
@[simp] theorem State.mdProc_outbox (m : Fin 24) (x : List NUM) : (s.mdProc m x).outbox = s.outbox := rfl
@[simp] theorem State.mdProc_idx (m : Fin 24) (x : List NUM) : (s.mdProc m x).idx = s.idx := rfl
@[simp] theorem State.mdProc_ap (m : Fin 24) (x : List NUM) : (s.mdProc m x).blk.ap = s.blk.ap := rfl
@[simp] theorem State.mdProc_bq (m : Fin 24) (x : List NUM) : (s.mdProc m x).blk.bq = s.blk.bq := rfl
@[simp] theorem State.mdProc_gp (m : Fin 24) (x : List NUM) : (s.mdProc m x).blk.gp = s.blk.gp := rfl
@[simp] theorem State.mdProc_rv (m : Fin 24) (x : List NUM) : (s.mdProc m x).blk.rv = s.blk.rv := rfl

@[simp] theorem State.mdProc_rb (m : Fin 24) (x : List NUM) :
    (s.mdProc m x).blk.rb = s.blk.rb.set (rbOfMd m) (x.foldl (rbWrite s.cfg (rbOfMd m)) s.blk.rb[rbOfMd m]) := rfl

/-- The positions MD.PROC reads, in order (41_modulated_delay.md R112 step 3). -/
def mdTaps (d : ModDelay) (k0 l : Nat) : List NUM := (List.range l).map fun n => (d.advance l).tap (k0 + n)

@[simp] theorem mdTaps_length (d : ModDelay) (k0 l : Nat) : (mdTaps d k0 l).length = l := by simp [mdTaps]

theorem State.mdProc_md (m : Fin 24) (x : List NUM) :
    (s.mdProc m x).blk.md = s.blk.md.set m
      { s.blk.md[m].advance x.length with
        out := overwrite s.blk.md[m].out ((mdTaps s.blk.md[m] s.blk.rb[rbOfMd m].wc x.length).map
          (rbRead s.cfg (rbOfMd m) (x.foldl (rbWrite s.cfg (rbOfMd m)) s.blk.rb[rbOfMd m]))) } := rfl

theorem State.mdProc_viol (m : Fin 24) (x : List NUM) :
    (s.mdProc m x).viol = s.viol ++ (mdTaps s.blk.md[m] s.blk.rb[rbOfMd m].wc x.length).flatMap
      (rbReadViol s.cfg (rbOfMd m) (x.foldl (rbWrite s.cfg (rbOfMd m)) s.blk.rb[rbOfMd m])) := rfl

/-- Overwriting a buffer with no more elements than it has keeps its length. -/
theorem overwrite_length {old new : List NUM} (h : new.length ≤ old.length) :
    (overwrite old new).length = old.length := by simp [overwrite]; omega

/-- The elements of an overwritten buffer: the new ones first, then the old ones. -/
theorem overwrite_getElem? (old new : List NUM) (n : Nat) :
    (overwrite old new)[n]? = if n < new.length then new[n]? else old[n]? := by
  unfold overwrite
  split
  · rw [List.getElem?_append_left ‹_›]
  · rw [List.getElem?_append_right (not_lt.1 ‹_›), List.getElem?_drop]; congr 1; omega

/-! ## AP.PROC -/

@[simp] theorem apLoop_wc (p : Params) (r : Fin 25) (m : ModDelay) (g : NUM) (b : RingBuf) (x : List NUM) :
    (apLoop p r m g b x).buf.wc = b.wc + x.length := by
  induction x generalizing b with
  | nil => rfl
  | cons v x ih => rw [apLoop, ih, rbWrite_wc, List.length_cons]; omega

@[simp] theorem apLoop_length (p : Params) (r : Fin 25) (m : ModDelay) (g : NUM) (b : RingBuf) (x : List NUM) :
    (apLoop p r m g b x).out.length = x.length := by
  induction x generalizing b with
  | nil => rfl
  | cons v x ih => rw [apLoop, List.length_cons, ih, List.length_cons]

/-- AP.PROC keeps the canonical form of the storage. -/
theorem apLoop_wf {p : Params} {r : Fin 25} {m : ModDelay} {g : NUM} {b : RingBuf} (x : List NUM)
    (hn : 1 ≤ p.rbCap[r]) (h : Memory.wf p.rbCap[r] b.data = true) :
    Memory.wf p.rbCap[r] (apLoop p r m g b x).buf.data = true := by
  induction x generalizing b with
  | nil => exact h
  | cons v x ih => exact ih (rbWrite_wf _ hn h)

/-- A block is processed as its two parts one after the other. -/
theorem apLoop_append (p : Params) (r : Fin 25) (m : ModDelay) (g : NUM) (b : RingBuf) (x y : List NUM) :
    apLoop p r m g b (x ++ y) =
      ⟨(apLoop p r m g (apLoop p r m g b x).buf y).buf,
        (apLoop p r m g b x).out ++ (apLoop p r m g (apLoop p r m g b x).buf y).out,
        (apLoop p r m g b x).viol ++ (apLoop p r m g (apLoop p r m g b x).buf y).viol⟩ := by
  induction x generalizing b with
  | nil => simp [apLoop]
  | cons v x ih => simp [apLoop, ih]

@[simp] theorem State.apProc_cfg (a : Fin 20) (x : List NUM) : (s.apProc a x).cfg = s.cfg := rfl
@[simp] theorem State.apProc_rvRan (a : Fin 20) (x : List NUM) : (s.apProc a x).rvRan = s.rvRan := rfl
@[simp] theorem State.apProc_gpRan (a : Fin 20) (x : List NUM) : (s.apProc a x).gpRan = s.gpRan := rfl
@[simp] theorem State.apProc_args (a : Fin 20) (x : List NUM) : (s.apProc a x).args = s.args := rfl
@[simp] theorem State.apProc_queue (a : Fin 20) (x : List NUM) : (s.apProc a x).queue = s.queue := rfl
@[simp] theorem State.apProc_outbox (a : Fin 20) (x : List NUM) : (s.apProc a x).outbox = s.outbox := rfl
@[simp] theorem State.apProc_idx (a : Fin 20) (x : List NUM) : (s.apProc a x).idx = s.idx := rfl
@[simp] theorem State.apProc_bq (a : Fin 20) (x : List NUM) : (s.apProc a x).blk.bq = s.blk.bq := rfl
@[simp] theorem State.apProc_gp (a : Fin 20) (x : List NUM) : (s.apProc a x).blk.gp = s.blk.gp := rfl
@[simp] theorem State.apProc_rv (a : Fin 20) (x : List NUM) : (s.apProc a x).blk.rv = s.blk.rv := rfl

/-- The sample loop AP.PROC runs. -/
def apRun (s : State) (a : Fin 20) (x : List NUM) : ApRun :=
  apLoop s.cfg (rbOfMd (mdOfAp a)) (s.blk.md[mdOfAp a].advance x.length) s.blk.ap[a].fb s.blk.rb[rbOfMd (mdOfAp a)] x

theorem State.apProc_rb (a : Fin 20) (x : List NUM) :
    (s.apProc a x).blk.rb = s.blk.rb.set (rbOfMd (mdOfAp a)) (apRun s a x).buf := rfl
theorem State.apProc_md (a : Fin 20) (x : List NUM) :
    (s.apProc a x).blk.md = s.blk.md.set (mdOfAp a) (s.blk.md[mdOfAp a].advance x.length) := rfl
theorem State.apProc_ap (a : Fin 20) (x : List NUM) :
    (s.apProc a x).blk.ap =
      s.blk.ap.set a { s.blk.ap[a] with out := overwrite s.blk.ap[a].out (apRun s a x).out } := rfl
theorem State.apProc_viol (a : Fin 20) (x : List NUM) : (s.apProc a x).viol = s.viol ++ (apRun s a x).viol := rfl

/-! ## BQ.PROC -/

@[simp] theorem bqLoop_length (f : Biquad) (x : List NUM) : (bqLoop f x).2.length = x.length := by
  induction x generalizing f with
  | nil => rfl
  | cons v x ih => rw [bqLoop, List.length_cons, ih, List.length_cons]
@[simp] theorem bqLoop_type (f : Biquad) (x : List NUM) : (bqLoop f x).1.type = f.type := by
  induction x generalizing f with
  | nil => rfl
  | cons v x ih => exact ih (f.shift v (f.output v))
@[simp] theorem bqLoop_freq (f : Biquad) (x : List NUM) : (bqLoop f x).1.freq = f.freq := by
  induction x generalizing f with
  | nil => rfl
  | cons v x ih => exact ih (f.shift v (f.output v))
@[simp] theorem bqLoop_fs (f : Biquad) (x : List NUM) : (bqLoop f x).1.fs = f.fs := by
  induction x generalizing f with
  | nil => rfl
  | cons v x ih => exact ih (f.shift v (f.output v))
@[simp] theorem bqLoop_coeffs (f : Biquad) (x : List NUM) : (bqLoop f x).1.coeffs = f.coeffs := by
  induction x generalizing f with
  | nil => rfl
  | cons v x ih => exact ih (f.shift v (f.output v))

@[simp] theorem State.bqProc_cfg (q : Fin 4) (x : List NUM) : ((s.bqProc q x).1).cfg = s.cfg := rfl
@[simp] theorem State.bqProc_rvRan (q : Fin 4) (x : List NUM) : ((s.bqProc q x).1).rvRan = s.rvRan := rfl
@[simp] theorem State.bqProc_gpRan (q : Fin 4) (x : List NUM) : ((s.bqProc q x).1).gpRan = s.gpRan := rfl
@[simp] theorem State.bqProc_args (q : Fin 4) (x : List NUM) : ((s.bqProc q x).1).args = s.args := rfl
@[simp] theorem State.bqProc_queue (q : Fin 4) (x : List NUM) : ((s.bqProc q x).1).queue = s.queue := rfl
@[simp] theorem State.bqProc_outbox (q : Fin 4) (x : List NUM) : ((s.bqProc q x).1).outbox = s.outbox := rfl
@[simp] theorem State.bqProc_idx (q : Fin 4) (x : List NUM) : ((s.bqProc q x).1).idx = s.idx := rfl
@[simp] theorem State.bqProc_rb (q : Fin 4) (x : List NUM) : ((s.bqProc q x).1).blk.rb = s.blk.rb := rfl
@[simp] theorem State.bqProc_md (q : Fin 4) (x : List NUM) : ((s.bqProc q x).1).blk.md = s.blk.md := rfl
@[simp] theorem State.bqProc_ap (q : Fin 4) (x : List NUM) : ((s.bqProc q x).1).blk.ap = s.blk.ap := rfl
@[simp] theorem State.bqProc_gp (q : Fin 4) (x : List NUM) : ((s.bqProc q x).1).blk.gp = s.blk.gp := rfl
@[simp] theorem State.bqProc_rv (q : Fin 4) (x : List NUM) : ((s.bqProc q x).1).blk.rv = s.blk.rv := rfl

@[simp] theorem State.bqProc_bq (q : Fin 4) (x : List NUM) :
    (s.bqProc q x).1.blk.bq = s.blk.bq.set q (bqLoop s.blk.bq[q] x).1 := rfl
@[simp] theorem State.bqProc_viol (q : Fin 4) (x : List NUM) :
    (s.bqProc q x).1.viol = s.viol ++ bqViol q s.blk.bq[q] := rfl
@[simp] theorem State.bqProc_out (q : Fin 4) (x : List NUM) : (s.bqProc q x).2 = (bqLoop s.blk.bq[q] x).2 := rfl

/-! ## The engine's steps -/

@[simp] theorem State.smoothFreeze_cfg  : (s.smoothFreeze).cfg = s.cfg := rfl
@[simp] theorem State.smoothFreeze_rvRan  : (s.smoothFreeze).rvRan = s.rvRan := rfl
@[simp] theorem State.smoothFreeze_gpRan  : (s.smoothFreeze).gpRan = s.gpRan := rfl
@[simp] theorem State.smoothFreeze_args  : (s.smoothFreeze).args = s.args := rfl
@[simp] theorem State.smoothFreeze_queue  : (s.smoothFreeze).queue = s.queue := rfl
@[simp] theorem State.smoothFreeze_outbox  : (s.smoothFreeze).outbox = s.outbox := rfl
@[simp] theorem State.smoothFreeze_idx  : (s.smoothFreeze).idx = s.idx := rfl
@[simp] theorem State.smoothFreeze_rb  : (s.smoothFreeze).blk.rb = s.blk.rb := rfl
@[simp] theorem State.smoothFreeze_md  : (s.smoothFreeze).blk.md = s.blk.md := rfl
@[simp] theorem State.smoothFreeze_ap  : (s.smoothFreeze).blk.ap = s.blk.ap := rfl
@[simp] theorem State.smoothFreeze_bq  : (s.smoothFreeze).blk.bq = s.blk.bq := rfl
@[simp] theorem State.smoothFreeze_gp  : (s.smoothFreeze).blk.gp = s.blk.gp := rfl

@[simp] theorem State.preFilter_cfg (l r : List NUM) : (s.preFilter l r).cfg = s.cfg := rfl
@[simp] theorem State.preFilter_rvRan (l r : List NUM) : (s.preFilter l r).rvRan = s.rvRan := rfl
@[simp] theorem State.preFilter_gpRan (l r : List NUM) : (s.preFilter l r).gpRan = s.gpRan := rfl
@[simp] theorem State.preFilter_args (l r : List NUM) : (s.preFilter l r).args = s.args := rfl
@[simp] theorem State.preFilter_queue (l r : List NUM) : (s.preFilter l r).queue = s.queue := rfl
@[simp] theorem State.preFilter_outbox (l r : List NUM) : (s.preFilter l r).outbox = s.outbox := rfl
@[simp] theorem State.preFilter_idx (l r : List NUM) : (s.preFilter l r).idx = s.idx := rfl
@[simp] theorem State.preFilter_rb (l r : List NUM) : (s.preFilter l r).blk.rb = s.blk.rb := rfl
@[simp] theorem State.preFilter_md (l r : List NUM) : (s.preFilter l r).blk.md = s.blk.md := rfl
@[simp] theorem State.preFilter_ap (l r : List NUM) : (s.preFilter l r).blk.ap = s.blk.ap := rfl
@[simp] theorem State.preFilter_gp (l r : List NUM) : (s.preFilter l r).blk.gp = s.blk.gp := rfl

@[simp] theorem State.tapTank_cfg (k : Fin 12) : (s.tapTank k).cfg = s.cfg := rfl
@[simp] theorem State.tapTank_rvRan (k : Fin 12) : (s.tapTank k).rvRan = s.rvRan := rfl
@[simp] theorem State.tapTank_gpRan (k : Fin 12) : (s.tapTank k).gpRan = s.gpRan := rfl
@[simp] theorem State.tapTank_args (k : Fin 12) : (s.tapTank k).args = s.args := rfl
@[simp] theorem State.tapTank_queue (k : Fin 12) : (s.tapTank k).queue = s.queue := rfl
@[simp] theorem State.tapTank_outbox (k : Fin 12) : (s.tapTank k).outbox = s.outbox := rfl
@[simp] theorem State.tapTank_idx (k : Fin 12) : (s.tapTank k).idx = s.idx := rfl
@[simp] theorem State.tapTank_rb (k : Fin 12) : (s.tapTank k).blk.rb = s.blk.rb := rfl
@[simp] theorem State.tapTank_md (k : Fin 12) : (s.tapTank k).blk.md = s.blk.md := rfl
@[simp] theorem State.tapTank_ap (k : Fin 12) : (s.tapTank k).blk.ap = s.blk.ap := rfl
@[simp] theorem State.tapTank_bq (k : Fin 12) : (s.tapTank k).blk.bq = s.blk.bq := rfl
@[simp] theorem State.tapTank_gp (k : Fin 12) : (s.tapTank k).blk.gp = s.blk.gp := rfl

@[simp] theorem State.snapshot_cfg  : (s.snapshot).cfg = s.cfg := rfl
@[simp] theorem State.snapshot_rvRan  : (s.snapshot).rvRan = s.rvRan := rfl
@[simp] theorem State.snapshot_gpRan  : (s.snapshot).gpRan = s.gpRan := rfl
@[simp] theorem State.snapshot_args  : (s.snapshot).args = s.args := rfl
@[simp] theorem State.snapshot_queue  : (s.snapshot).queue = s.queue := rfl
@[simp] theorem State.snapshot_outbox  : (s.snapshot).outbox = s.outbox := rfl
@[simp] theorem State.snapshot_idx  : (s.snapshot).idx = s.idx := rfl
@[simp] theorem State.snapshot_rb  : (s.snapshot).blk.rb = s.blk.rb := rfl
@[simp] theorem State.snapshot_md  : (s.snapshot).blk.md = s.blk.md := rfl
@[simp] theorem State.snapshot_ap  : (s.snapshot).blk.ap = s.blk.ap := rfl
@[simp] theorem State.snapshot_bq  : (s.snapshot).blk.bq = s.blk.bq := rfl
@[simp] theorem State.snapshot_gp  : (s.snapshot).blk.gp = s.blk.gp := rfl

@[simp] theorem State.postFilter_cfg (x : List NUM) : ((s.postFilter x).1).cfg = s.cfg := rfl
@[simp] theorem State.postFilter_rvRan (x : List NUM) : ((s.postFilter x).1).rvRan = s.rvRan := rfl
@[simp] theorem State.postFilter_gpRan (x : List NUM) : ((s.postFilter x).1).gpRan = s.gpRan := rfl
@[simp] theorem State.postFilter_args (x : List NUM) : ((s.postFilter x).1).args = s.args := rfl
@[simp] theorem State.postFilter_queue (x : List NUM) : ((s.postFilter x).1).queue = s.queue := rfl
@[simp] theorem State.postFilter_outbox (x : List NUM) : ((s.postFilter x).1).outbox = s.outbox := rfl
@[simp] theorem State.postFilter_idx (x : List NUM) : ((s.postFilter x).1).idx = s.idx := rfl
@[simp] theorem State.postFilter_rb (x : List NUM) : ((s.postFilter x).1).blk.rb = s.blk.rb := rfl
@[simp] theorem State.postFilter_md (x : List NUM) : ((s.postFilter x).1).blk.md = s.blk.md := rfl
@[simp] theorem State.postFilter_ap (x : List NUM) : ((s.postFilter x).1).blk.ap = s.blk.ap := rfl
@[simp] theorem State.postFilter_gp (x : List NUM) : ((s.postFilter x).1).blk.gp = s.blk.gp := rfl
@[simp] theorem State.postFilter_rv (x : List NUM) : ((s.postFilter x).1).blk.rv = s.blk.rv := rfl

@[simp] theorem State.chain_cfg (as : List (Fin 20)) (c : List NUM) : (s.chain as c).cfg = s.cfg := by
  induction as generalizing s c with
  | nil => rfl
  | cons a as ih => rw [State.chain, ih]; rfl
@[simp] theorem State.chain_rvRan (as : List (Fin 20)) (c : List NUM) : (s.chain as c).rvRan = s.rvRan := by
  induction as generalizing s c with
  | nil => rfl
  | cons a as ih => rw [State.chain, ih]; rfl
@[simp] theorem State.chain_gpRan (as : List (Fin 20)) (c : List NUM) : (s.chain as c).gpRan = s.gpRan := by
  induction as generalizing s c with
  | nil => rfl
  | cons a as ih => rw [State.chain, ih]; rfl
@[simp] theorem State.chain_args (as : List (Fin 20)) (c : List NUM) : (s.chain as c).args = s.args := by
  induction as generalizing s c with
  | nil => rfl
  | cons a as ih => rw [State.chain, ih]; rfl
@[simp] theorem State.chain_queue (as : List (Fin 20)) (c : List NUM) : (s.chain as c).queue = s.queue := by
  induction as generalizing s c with
  | nil => rfl
  | cons a as ih => rw [State.chain, ih]; rfl
@[simp] theorem State.chain_outbox (as : List (Fin 20)) (c : List NUM) : (s.chain as c).outbox = s.outbox := by
  induction as generalizing s c with
  | nil => rfl
  | cons a as ih => rw [State.chain, ih]; rfl
@[simp] theorem State.chain_idx (as : List (Fin 20)) (c : List NUM) : (s.chain as c).idx = s.idx := by
  induction as generalizing s c with
  | nil => rfl
  | cons a as ih => rw [State.chain, ih]; rfl
@[simp] theorem State.chain_bq (as : List (Fin 20)) (c : List NUM) : (s.chain as c).blk.bq = s.blk.bq := by
  induction as generalizing s c with
  | nil => rfl
  | cons a as ih => rw [State.chain, ih]; rfl
@[simp] theorem State.chain_gp (as : List (Fin 20)) (c : List NUM) : (s.chain as c).blk.gp = s.blk.gp := by
  induction as generalizing s c with
  | nil => rfl
  | cons a as ih => rw [State.chain, ih]; rfl
@[simp] theorem State.chain_rv (as : List (Fin 20)) (c : List NUM) : (s.chain as c).blk.rv = s.blk.rv := by
  induction as generalizing s c with
  | nil => rfl
  | cons a as ih => rw [State.chain, ih]; rfl

@[simp] theorem State.lane_cfg (i : Fin 4) : (s.lane i).cfg = s.cfg := by
  unfold State.lane; dsimp only; rw [State.mdProc_cfg, State.chain_cfg]; split <;> rfl
@[simp] theorem State.lane_rvRan (i : Fin 4) : (s.lane i).rvRan = s.rvRan := by
  unfold State.lane; dsimp only; rw [State.mdProc_rvRan, State.chain_rvRan]; split <;> rfl
@[simp] theorem State.lane_gpRan (i : Fin 4) : (s.lane i).gpRan = s.gpRan := by
  unfold State.lane; dsimp only; rw [State.mdProc_gpRan, State.chain_gpRan]; split <;> rfl
@[simp] theorem State.lane_args (i : Fin 4) : (s.lane i).args = s.args := by
  unfold State.lane; dsimp only; rw [State.mdProc_args, State.chain_args]; split <;> rfl
@[simp] theorem State.lane_queue (i : Fin 4) : (s.lane i).queue = s.queue := by
  unfold State.lane; dsimp only; rw [State.mdProc_queue, State.chain_queue]; split <;> rfl
@[simp] theorem State.lane_outbox (i : Fin 4) : (s.lane i).outbox = s.outbox := by
  unfold State.lane; dsimp only; rw [State.mdProc_outbox, State.chain_outbox]; split <;> rfl
@[simp] theorem State.lane_idx (i : Fin 4) : (s.lane i).idx = s.idx := by
  unfold State.lane; dsimp only; rw [State.mdProc_idx, State.chain_idx]; split <;> rfl
@[simp] theorem State.lane_gp (i : Fin 4) : (s.lane i).blk.gp = s.blk.gp := by
  unfold State.lane; dsimp only; rw [State.mdProc_gp, State.chain_gp]; split <;> rfl
@[simp] theorem State.lane_rv (i : Fin 4) : (s.lane i).blk.rv = s.blk.rv := by
  unfold State.lane; dsimp only; rw [State.mdProc_rv, State.chain_rv]; split <;> rfl

/-! ## GP.PROC -/

@[simp] theorem grainLoop_length (p : Params) (v : NUM) (b : RingBuf) (k0 l n : Nat) (g : Grain) (r : Rng) :
    (grainLoop p v b k0 l n g r).out.length = l := by
  induction l generalizing n g r with
  | zero => rfl
  | succ l ih => rw [grainLoop, List.length_cons, ih]

@[simp] theorem poolLoop_length (p : Params) (v : NUM) (b : RingBuf) (k0 l : Nat) (gs : List Grain) (r : Rng)
    (acc : List NUM) (h : acc.length = l) : (poolLoop p v b k0 l gs r acc).out.length = l := by
  induction gs generalizing r acc with
  | nil => exact h
  | cons g gs ih => rw [poolLoop]; exact ih _ _ (by simp [h])

@[simp] theorem poolLoop_grains_length (p : Params) (v : NUM) (b : RingBuf) (k0 l : Nat) (gs : List Grain) (r : Rng)
    (acc : List NUM) : (poolLoop p v b k0 l gs r acc).grains.length = gs.length := by
  induction gs generalizing r acc with
  | nil => rfl
  | cons g gs ih => rw [poolLoop, List.length_cons, ih, List.length_cons]

theorem rngValue_mem (sel : RngSel) (g : Rng) : 0 ≤ (rngValue sel g).val ∧ (rngValue sel g).val < 1 := by
  cases sel <;> exact ⟨frac_nonneg _, frac_lt_one _⟩

@[simp] theorem State.gpProc_cfg (x : List NUM) : ((s.gpProc x).1).cfg = s.cfg := rfl
@[simp] theorem State.gpProc_rvRan (x : List NUM) : ((s.gpProc x).1).rvRan = s.rvRan := rfl
@[simp] theorem State.gpProc_gpRan (x : List NUM) : ((s.gpProc x).1).gpRan = s.gpRan := rfl
@[simp] theorem State.gpProc_args (x : List NUM) : ((s.gpProc x).1).args = s.args := rfl
@[simp] theorem State.gpProc_queue (x : List NUM) : ((s.gpProc x).1).queue = s.queue := rfl
@[simp] theorem State.gpProc_outbox (x : List NUM) : ((s.gpProc x).1).outbox = s.outbox := rfl
@[simp] theorem State.gpProc_idx (x : List NUM) : ((s.gpProc x).1).idx = s.idx := rfl
@[simp] theorem State.gpProc_md (x : List NUM) : ((s.gpProc x).1).blk.md = s.blk.md := rfl
@[simp] theorem State.gpProc_ap (x : List NUM) : ((s.gpProc x).1).blk.ap = s.blk.ap := rfl
@[simp] theorem State.gpProc_bq (x : List NUM) : ((s.gpProc x).1).blk.bq = s.blk.bq := rfl
@[simp] theorem State.gpProc_rv (x : List NUM) : ((s.gpProc x).1).blk.rv = s.blk.rv := rfl

@[simp] theorem State.gpProc_rb (x : List NUM) :
    (s.gpProc x).1.blk.rb = s.blk.rb.set 24 (x.foldl (rbWrite s.cfg 24) s.blk.rb[24]) := rfl
@[simp] theorem State.gpProc_speed (x : List NUM) : (s.gpProc x).1.blk.gp.speed = s.blk.gp.speed := rfl
@[simp] theorem State.gpProc_out_length (x : List NUM) : (s.gpProc x).2.length = x.length := by
  rw [State.gpProc, List.length_map, poolLoop_length _ _ _ _ _ _ _ _ (by simp)]

/-! ## The constraints on the construction -/

/-- What `valid` says of the numbers of a construction (00_scope.md R9). -/
theorem valid_numbers {p : Params} (h : p.valid = true) :
    1 ≤ p.blockSize ∧ 1 ≤ p.numGrains ∧ 0 < p.sampleRate.val ∧ 0 < p.grainLen.val ∧ (∀ n ∈ p.rbCap.toList, 1 ≤ n) ∧
      (∀ l ∈ p.preLen.toList ++ p.tankApLen.toList ++ p.tankDlyLen.toList, 0 ≤ l.val) ∧
      ∀ g ∈ p.preFb.toList, 0 ≤ g.val ∧ g.val < 1 := by
  simp only [Params.valid, Bool.and_eq_true, decide_eq_true_eq, List.all_eq_true, NUM.lt_iff, NUM.le_iff, NUM.val_rat,
    Rat.cast_zero, Rat.cast_one] at h
  obtain ⟨⟨⟨⟨⟨⟨⟨⟨⟨⟨hb, hs⟩, hc⟩, hg⟩, hl⟩, hp⟩, ha⟩, hd⟩, hf⟩, -⟩, -⟩ := h
  refine ⟨hb, hg, hs, hl, hc, fun l hm => ?_, hf⟩
  rcases List.mem_append.1 hm with hm | hm
  · rcases List.mem_append.1 hm with hm | hm
    · exact hp l hm
    · exact ha l hm
  · exact hd l hm

/-! ## Running on an instance, and operands -/

/-- An operation on an instance runs on it when it exists and is refused as illegal when it does not; it always answers a
next state. -/
theorem onInstance_cases (n : Nat) (i : Instr) (inst : Nat) (run : Fin n → State) :
    (∃ h : inst < n, onInstance n i inst s run = .next (run ⟨inst, h⟩)) ∨
      (n ≤ inst ∧ onInstance n i inst s run = .next (s.refuse (.illegalCmd (encode i)))) := by
  unfold onInstance
  split
  · exact .inl ⟨‹_›, rfl⟩
  · exact .inr ⟨not_lt.1 ‹_›, rfl⟩

/-- On an existing instance the operation runs. -/
@[simp] theorem onInstance_fin (n : Nat) (i : Instr) (k : Fin n) (run : Fin n → State) :
    onInstance n i k s run = .next (run k) := by simp [onInstance]

/-- An ill-typed operand is refused with its record; another is handed on. -/
theorem withOperand_cases {α : Type} (o : Except Viol α) (run : α → State) :
    (∃ a, o = .ok a ∧ withOperand s o run = run a) ∨ (∃ v, o = .error v ∧ withOperand s o run = s.refuse v) := by
  cases o with
  | ok a => exact .inl ⟨a, rfl, rfl⟩
  | error v => exact .inr ⟨v, rfl, rfl⟩

/-- An integer operand is a number that equals an integer. -/
theorem integerOperand_eq_some {v : NUM} {z : Int} : integerOperand v = some z ↔ v.val = z := by
  unfold integerOperand
  simp only [NUM.same_iff, NUM.val_ofInt, NUM.floor_eq]
  constructor
  · intro h
    split at h
    · simp only [Option.some.injEq] at h; rw [← h]; exact Eq.symm ‹_›
    · exact absurd h (by simp)
  · intro h; simp [h]

/-- A natural operand is an integer that is not negative. -/
theorem naturalOperand_eq_some {v : NUM} {n : Nat} : naturalOperand v = some n ↔ v.val = n := by
  unfold naturalOperand
  constructor
  · intro h
    split at h
    · rename_i k hk
      split at h
      · simp only [Option.some.injEq] at h
        rw [integerOperand_eq_some.1 hk, ← h]
        exact_mod_cast (Int.toNat_of_nonneg ‹_›).symm
      · exact absurd h (by simp)
    · exact absurd h (by simp)
  · intro h; rw [integerOperand_eq_some (z := n) |>.2 (by simpa using h)]; simp

/-- A boolean operand is false exactly when it equals 0. -/
@[simp] theorem booleanOperand_iff (v : NUM) : booleanOperand v = true ↔ v.val ≠ 0 := by
  rw [booleanOperand, Bool.not_eq_true', ← Bool.not_eq_true, NUM.isZero_iff]

theorem booleanOperand_eq (v : NUM) : booleanOperand v = decide (v.val ≠ 0) := by
  rw [Bool.eq_iff_iff, booleanOperand_iff, decide_eq_true_iff]

/-- `bufSize` is an integer from 0 to `B`. -/
theorem bufSizeOperand_eq_some {b n : Nat} {v : NUM} : bufSizeOperand b v = some n ↔ v.val = n ∧ n ≤ b := by
  unfold bufSizeOperand
  constructor
  · intro h
    split at h
    · split at h
      · simp only [Option.some.injEq] at h; subst h; exact ⟨naturalOperand_eq_some.1 ‹_›, ‹_›⟩
      · exact absurd h (by simp)
    · exact absurd h (by simp)
  · rintro ⟨hv, hn⟩; rw [naturalOperand_eq_some.2 hv]; simp [hn]

/-- The block operand of a one-channel PROC, when it is legal. -/
theorem blockOperand_eq_ok {i : Instr} {x : List NUM} :
    blockOperand i s = .ok x ↔
      ∃ l : Nat, s.args.a0.val = l ∧ l ≤ s.cfg.blockSize ∧ l ≤ s.args.xin0.length ∧ x = s.args.xin0.take l := by
  unfold blockOperand
  constructor
  · intro h
    split at h
    · rename_i l hl
      obtain ⟨h1, h2⟩ := bufSizeOperand_eq_some.1 hl
      split at h
      · simp only [Except.ok.injEq] at h; exact ⟨l, h1, h2, ‹_›, h.symm⟩
      · exact absurd h (by simp)
    · exact absurd h (by simp)
  · rintro ⟨l, h1, h2, h3, rfl⟩
    rw [bufSizeOperand_eq_some.2 ⟨h1, h2⟩]; simp [h3]

/-- A legal block operand has at most `B` samples. -/
theorem blockOperand_length {i : Instr} {x : List NUM} (h : blockOperand i s = .ok x) : x.length ≤ s.cfg.blockSize := by
  obtain ⟨l, -, h2, h3, rfl⟩ := (blockOperand_eq_ok s).1 h
  simp [h2]

/-- The block operands of RV.PROC, when they are legal. -/
theorem stereoOperand_eq_ok {i : Instr} {x : List NUM × List NUM} :
    stereoOperand i s = .ok x ↔
      s.args.a0.val = s.cfg.blockSize ∧ s.cfg.blockSize ≤ s.args.xin0.length ∧ s.cfg.blockSize ≤ s.args.xin1.length ∧
        x = (s.args.xin0.take s.cfg.blockSize, s.args.xin1.take s.cfg.blockSize) := by
  unfold stereoOperand
  simp only [NUM.same_iff, NUM.val_ofNat]
  constructor
  · intro h
    split at h
    · split at h
      · split at h
        · simp only [Except.ok.injEq] at h; exact ⟨‹_›, ‹_›, ‹_›, h.symm⟩
        · exact absurd h (by simp)
      · exact absurd h (by simp)
    · exact absurd h (by simp)
  · rintro ⟨h1, h2, h3, rfl⟩; simp [h1, h2, h3]

/-- EarlyStages `k + 1` taps stage `k`. -/
theorem stageOperand_eq_some {v : NUM} {k : Fin 12} : stageOperand v = some k ↔ v.val = (k.val + 1 : Nat) := by
  unfold stageOperand
  constructor
  · intro h
    split at h
    · rename_i n hn
      split at h
      · simp only [Option.some.injEq] at h
        rw [naturalOperand_eq_some.1 hn, ← h]; congr 1; simp; omega
      · exact absurd h (by simp)
    · exact absurd h (by simp)
  · intro h
    rw [naturalOperand_eq_some.2 h]; simp

/-- A response block has `B` samples when no more than `B` were produced. -/
theorem fillBlock_length {b idx slot : Nat} {x : List NUM} (h : x.length ≤ b) : (fillBlock b idx slot x).length = b := by
  simp [fillBlock]; omega

/-- The samples an operation produced stand first in the response block. -/
theorem fillBlock_take (b idx slot : Nat) (x : List NUM) : (fillBlock b idx slot x).take x.length = x := by
  simp [fillBlock]

/-- A response block that is wholly produced holds what was produced. -/
theorem fillBlock_full {b idx slot : Nat} {x : List NUM} (h : b ≤ x.length) : fillBlock b idx slot x = x := by
  have : b - x.length = 0 := by omega
  simp [fillBlock, this]

end Sys2Proof.Machine
end

