-- ==== Sys2Proof/Machine/Assembler.lean ====
section
/-! DEFINITION. The textual form of packets, 30_encoding.md R91, and of the pseudo-operations, R92: one line to the packets it
stands for. It is the form of the spec's programs; the block itself receives packets only. -/

namespace Sys2Proof.Machine.Text

/-- A line without its comment: "`;` starts a comment". -/
def dropComment (l : List Char) : List Char := l.takeWhile (· ≠ ';')

/-- Without blanks at both ends. -/
def trim (l : List Char) : List Char :=
  ((l.dropWhile Char.isWhitespace).reverse.dropWhile Char.isWhitespace).reverse

/-- The pieces between commas that stand outside brackets; `cur` is the piece read so far, reversed. -/
def pieces (inside : Bool) (cur : List Char) : List Char → List (List Char)
  | [] => [trim cur.reverse]
  | c :: rest =>
    if c = ',' ∧ inside = false then trim cur.reverse :: pieces false [] rest
    else pieces (if c = '[' then true else if c = ']' then false else inside) (c :: cur) rest

/-- The operands of a line: none when nothing is written. -/
def operands (l : List Char) : List (List Char) := if trim l = [] then [] else pieces false [] l

/-- An unsigned decimal integer; `acc` is what the digits before say. -/
def digits (acc : Nat) : List Char → Option Nat
  | [] => some acc
  | c :: rest => if c.isDigit then digits (10 * acc + (c.toNat - '0'.toNat)) rest else none

/-- A decimal integer of at least one digit. -/
def natural (l : List Char) : Option Nat := if l = [] then none else digits 0 l

/-- An unsigned number: "decimal integers, decimal fractions, or exact rationals `p/q`". -/
def unsigned (l : List Char) : Option ℚ :=
  let whole := l.takeWhile Char.isDigit
  match l.dropWhile Char.isDigit with
  | [] => (natural whole).map fun n => (n : ℚ)
  | '.' :: frac => do
    let n ← natural whole
    let f ← natural frac
    return n + f / 10 ^ frac.length
  | '/' :: den => do
    let n ← natural whole
    let d ← natural den
    if d = 0 then none else return (n : ℚ) / d
  | _ => none

/-- A number, with an optional minus sign (the spec writes both the hyphen and U+2212). -/
def number : List Char → Option NUM
  | '-' :: l => (unsigned l).map fun v => .rat (-v)
  | '−' :: l => (unsigned l).map fun v => .rat (-v)
  | l => (unsigned l).map .rat

/-- A block operand: "a bracketed list". -/
def blockText : List Char → Option (List NUM)
  | '[' :: l =>
    match l.reverse with
    | ']' :: r => (operands r.reverse).mapM number
    | _ => none
  | _ => none

/-- An instance index, "decimal"; it must fit its field of the command word (R81). -/
def instanceText (l : List Char) : Option Nat := (natural l).bind fun n => if n < 256 then some n else none

/-- A filter type "written by name", R86. -/
def typeText (l : List Char) : Option FilterType :=
  if l = "LowPass12".toList then some .lowPass12
  else if l = "LowPass6".toList then some .lowPass6
  else if l = "HighPass12".toList then some .highPass12
  else if l = "HighPass6".toList then some .highPass6
  else none

/-- The name of a parameter id, R85. -/
def paramName : ParamId → String
  | .decay => "Decay"
  | .sizeEarly => "SizeEarly"
  | .sizeLate => "SizeLate"
  | .diffuse => "Diffuse"
  | .lowCutPre => "LowCutPre"
  | .highCutPre => "HighCutPre"
  | .modulate => "Modulate"
  | .mix => "Mix"
  | .earlyStages => "EarlyStages"
  | .interpolation => "Interpolation"
  | .freeze => "Freeze"
  | .lowCutPost => "LowCutPost"
  | .highCutPost => "HighCutPost"

/-- A parameter id "written by name". -/
def paramText (l : List Char) : Option ParamId := allParams.find? fun id => decide ((paramName id).toList = l)

/-- `on` or `off`, R92. -/
def switchText (l : List Char) : Option Bool :=
  if l = "on".toList then some true else if l = "off".toList then some false else none

/-- The packets of a mnemonic with its operands, R91 and R92. -/
def assemble (mnemonic : List Char) (ops : List (List Char)) : Option (List Packet) :=
  let is (s : String) : Bool := decide (mnemonic = s.toList)
  match ops with
  | [] =>
    if is "RV.UPDATEALL" then some [Packet.rvUpdateall] else none
  | [x] =>
    if is "MD.GETO" then do return [Packet.mdGeto (← instanceText x)]
    else if is "AP.GETO" then do return [Packet.apGeto (← instanceText x)]
    else if is "BQ.UPDATE" then do return [Packet.bqUpdate (← instanceText x)]
    else if is "GP.SETSPEED" then do return [Packet.gpSetspeed (← number x)]
    else if is "GP.SEED" then do return [Packet.gpSeed (← number x)]
    else if is "GP.PROC" then do return [Packet.gpProc (← blockText x)]
    else if is "RV.FREEZE" then do return pseudoRvFreeze (← switchText x)
    else none
  | [x, y] =>
    if is "RB.WRITE" then do return [Packet.rbWrite (← instanceText x) (← number y)]
    else if is "RB.READ" then do return [Packet.rbRead (← instanceText x) (← number y)]
    else if is "MD.PROC" then do return [Packet.mdProc (← instanceText x) (← blockText y)]
    else if is "AP.SETFB" then do return [Packet.apSetfb (← instanceText x) (← number y)]
    else if is "AP.PROC" then do return [Packet.apProc (← instanceText x) (← blockText y)]
    else if is "BQ.SETTYPE" then do return [Packet.bqSettype (← instanceText x) (← typeText y)]
    else if is "BQ.SETFREQ" then do return [Packet.bqSetfreq (← instanceText x) (← number y)]
    else if is "BQ.SETFS" then do return [Packet.bqSetfs (← instanceText x) (← number y)]
    else if is "BQ.PROC" then do return [Packet.bqProc (← instanceText x) (← blockText y)]
    else if is "RV.SETPARAM" then do return [Packet.rvSetparam (← paramText x) (← number y)]
    else if is "RV.PROC" then do return [Packet.rvProc (← blockText x) (← blockText y)]
    else if is "MD.DELAY" then do return pseudoMdDelay (← instanceText x) (← number y)
    else none
  | [x, y, z] =>
    if is "AP.INIT" then do return pseudoApInit (← instanceText x) (← number y) (← number z)
    else if is "BQ.CONFIG" then do return pseudoBqConfig (← instanceText x) (← typeText y) (← number z)
    else none
  | [x, a, b, c, d] =>
    if is "MD.SETP" then do
      return [Packet.mdSetp (← instanceText x) (← number a) (← number b) (← number c) (← number d)]
    else if is "AP.SETP" then do
      return [Packet.apSetp (← instanceText x) (← number a) (← number b) (← number c) (← number d)]
    else none
  | _ =>
    if is "RV.BOOT" then do
      let v ← ops.mapM number
      if h : v.length = 13 then return pseudoRvBoot ⟨v.toArray, by simpa using h⟩ else none
    else none

/-- One line: "One operation per line"; a line with nothing but a comment stands for no packet. -/
def line (text : String) : Option (List Packet) :=
  let l := trim (dropComment text.toList)
  if l = [] then some []
  else assemble (l.takeWhile fun c => !c.isWhitespace) (operands (l.dropWhile fun c => !c.isWhitespace))

/-- A program: its lines in order. -/
def program (text : List String) : Option (List Packet) := (text.mapM line).map List.flatten

end Sys2Proof.Machine.Text
end

