-- ==== Sys2Proof/Tests/Slice0.lean ====
section
/-! SUPPORT. Own tests: ill-formed terms, words written out from 30_encoding.md R94, the vectors of 95_test_vectors.md as
single steps on small states, and for every statement with hypotheses a state that meets them. -/

namespace Sys2Proof.Tests

open Sys2Proof.Machine Sys2Proof.Claims

set_option Elab.async false

/-! ## Helpers -/

/-- Rational numbers. -/
def rats (x : List ℚ) : List NUM := x.map .rat

/-- Scalar operand slots. -/
def scalars (a0 a1 a2 a3 : ℚ) : Operands := ⟨.rat a0, .rat a1, .rat a2, .rat a3, [], []⟩

/-- A block operand with its `bufSize`. -/
def block (x : List ℚ) : Operands := ⟨.ofNat x.length, .rat 0, .rat 0, .rat 0, rats x, []⟩

/-- Two block operands with the `bufSize` 4. -/
def stereo (l r : List ℚ) : Operands := ⟨.ofNat 4, .rat 0, .rat 0, .rat 0, rats l, rats r⟩

/-- A delay with rational contents. -/
def delay (n : Int) (rate amount : ℚ) (interp : Bool) (phase : ℚ) (out : List ℚ) : ModDelay :=
  ⟨n, .rat rate, .rat amount, interp, .rat phase, rats out⟩

/-- An allpass with rational contents. -/
def allpass (fb : ℚ) (out : List ℚ) : Allpass := ⟨.rat fb, rats out⟩

/-- Coefficients. -/
def coeffs (b0 b1 b2 a1 a2 : ℚ) : Coeffs := ⟨.rat b0, .rat b1, .rat b2, .rat a1, .rat a2⟩

/-- A filter with no history. -/
def filter (t : FilterType) (freq fs : ℚ) (c : Coeffs) : Biquad :=
  ⟨t, .rat freq, .rat fs, c, .rat 0, .rat 0, .rat 0, .rat 0⟩

/-- A running grain. -/
def grain (start len speed pos : ℚ) : Grain := ⟨.rat start, .rat len, .rat speed, .rat pos, true⟩

/-- The test construction: the defaults of R9 with the stub PASS and, for the generator, zero draws. -/
def tiny : Params := { Params.testDefault with design := .pass, rng := .listed [] }

/-- `tiny` with every capacity `n`. -/
def tinyCap (n : Nat) : Params := { tiny with rbCap := Vector.replicate 25 n }

/-- The reset state of a construction with a packet's operands taken. -/
def at0 (p : Params) (a : Operands) : State := { State.resetWith p with args := a }

/-- The state an outcome goes on with. -/
def after : Host.Outcome State Fault Refusal → State
  | .next t => t
  | _ => State.reset

/-- The scalar results sent. -/
def scalarsOut (o : Host.Outcome State Fault Refusal) : List NUM := (after o).outbox.map (·.r0)

/-- The first block results sent, cut to `l` elements. -/
def blocksOut (l : Nat) (o : Host.Outcome State Fault Refusal) : List (List NUM) :=
  (after o).outbox.map (·.xout0.take l)

/-- The values of P4's boot, packets 0 to 12. -/
def p4Values : List ℚ := [9 / 20, 1, 1, 1, 20, 20000, 0, 3 / 4, 2, 1, 0, 20, 20000]

/-- A storage from the contents of its slots. -/
def slots (x : List ℚ) : Memory := (x.zipIdx.map fun c => (c.2, .rat c.1)).filter fun c => decide (c.2 ≠ .rat 0)

/-! ## Well-formedness: one ill-formed term per check -/

theorem test_wf_rbWrite : (Instr.rbWrite 25).wf = false := by decide
theorem test_wf_rbRead : (Instr.rbRead 25).wf = false := by decide
theorem test_wf_mdSetp : (Instr.mdSetp 24).wf = false := by decide
theorem test_wf_mdProc : (Instr.mdProc 24).wf = false := by decide
theorem test_wf_mdGeto : (Instr.mdGeto 24).wf = false := by decide
theorem test_wf_apSetp : (Instr.apSetp 20).wf = false := by decide
theorem test_wf_apSetfb : (Instr.apSetfb 20).wf = false := by decide
theorem test_wf_apProc : (Instr.apProc 20).wf = false := by decide
theorem test_wf_apGeto : (Instr.apGeto 20).wf = false := by decide
theorem test_wf_bqSettype : (Instr.bqSettype 4 .lowPass6).wf = false := by decide
theorem test_wf_bqSetfreq : (Instr.bqSetfreq 4).wf = false := by decide
theorem test_wf_bqSetfs : (Instr.bqSetfs 4).wf = false := by decide
theorem test_wf_bqUpdate : (Instr.bqUpdate 4).wf = false := by decide
theorem test_wf_bqProc : (Instr.bqProc 4).wf = false := by decide

/-! ## Decoding: every constructor from a word of 95_test_vectors.md section 2 or 30_encoding.md R94 -/

theorem test_decode_rb : decode 0x10180000 = .ok (.rbWrite 24) ∧ decode 0x11000000 = .ok (.rbRead 0) := by decide

theorem test_decode_md : decode 0x20050000 = .ok (.mdSetp 5) ∧ decode 0x21170000 = .ok (.mdProc 23) ∧
    decode 0x22170000 = .ok (.mdGeto 23) := by decide

theorem test_decode_ap : decode 0x30130000 = .ok (.apSetp 19) ∧ decode 0x310D0000 = .ok (.apSetfb 13) ∧
    decode 0x32000000 = .ok (.apProc 0) ∧ decode 0x33000000 = .ok (.apGeto 0) := by decide

theorem test_decode_bq : decode 0x40020200 = .ok (.bqSettype 2 .highPass12) ∧
    decode 0x40000300 = .ok (.bqSettype 0 .highPass6) ∧ decode 0x41030000 = .ok (.bqSetfreq 3) ∧
    decode 0x42010000 = .ok (.bqSetfs 1) ∧ decode 0x43010000 = .ok (.bqUpdate 1) ∧
    decode 0x44010000 = .ok (.bqProc 1) := by decide

theorem test_decode_rv_params : decode 0x50000000 = .ok .rvSetDecay ∧ decode 0x50000100 = .ok .rvSetSizeEarly ∧
    decode 0x50000200 = .ok .rvSetSizeLate ∧ decode 0x50000300 = .ok .rvSetDiffuse ∧
    decode 0x50000400 = .ok .rvSetLowCutPre ∧ decode 0x50000500 = .ok .rvSetHighCutPre ∧
    decode 0x50000600 = .ok .rvSetModulate ∧ decode 0x50000700 = .ok .rvSetMix ∧
    decode 0x50000800 = .ok .rvSetEarlyStages ∧ decode 0x50000900 = .ok .rvSetInterpolation ∧
    decode 0x50000A00 = .ok .rvSetFreeze ∧ decode 0x50000B00 = .ok .rvSetLowCutPost ∧
    decode 0x50000C00 = .ok .rvSetHighCutPost := by decide

theorem test_decode_rv : decode 0x51000000 = .ok .rvUpdateall ∧ decode 0x52000000 = .ok .rvProc := by decide

theorem test_decode_gp : decode 0x60000000 = .ok .gpSetspeed ∧ decode 0x61000000 = .ok .gpSeed ∧
    decode 0x62000000 = .ok .gpProc := by decide

/-- The illegal words of 95_test_vectors.md section 2. -/
theorem test_decode_illegal : decode 0x00000000 = .error .noSuchOperation ∧ decode 0xFFFFFFFF = .error .zeroByte ∧
    decode 0x10190000 = .error .badInstance ∧ decode 0x20180000 = .error .badInstance ∧
    decode 0x30140000 = .error .badInstance ∧ decode 0x40040000 = .error .badInstance ∧
    decode 0x40000400 = .error .badSelector ∧ decode 0x50000D00 = .error .badSelector ∧
    decode 0x50010000 = .error .badInstance ∧ decode 0x12000000 = .error .noSuchOperation ∧
    decode 0x23000000 = .error .noSuchOperation ∧ decode 0x53000000 = .error .noSuchOperation ∧
    decode 0x63000000 = .error .noSuchOperation ∧ decode 0x10000100 = .error .badSelector ∧
    decode 0x10000001 = .error .zeroByte ∧ decode 0x70000000 = .error .noSuchOperation := by decide

theorem test_decodeTableWord : decodeTableWord 32 0x310D0000 = some (.apSetfb 13) ∧
    decodeTableWord 32 0x10190000 = none ∧ encode (.apSetfb 13) = 0x310D0000 := by decide

/-- The step after `withFetchWord` runs that word's operation and takes nothing else. -/
theorem test_withFetchWord :
    step (State.reset.withFetchWord 32 0x43010000) = exec (.bqUpdate 1) (at0 .testDefault Operands.none) := by rfl

/-! ## The textual form, lines of 95_test_vectors.md section 2 and of 30_encoding.md R92 -/

theorem test_text_lines :
    Text.line "RB.READ 0, 5/2" = some [⟨0x11000000, scalars (5 / 2) 0 0 0⟩] ∧
      Text.line "MD.SETP    5, 2, 1/16, 0.5, 1   ; comment" = some [⟨0x20050000, scalars 2 (1 / 16) (1 / 2) 1⟩] ∧
      Text.line "MD.PROC 23, [1,2,3,4]" = some [⟨0x21170000, block [1, 2, 3, 4]⟩] ∧
      Text.line "BQ.SETTYPE 2, HighPass12" = some [⟨0x40020200, scalars 0 0 0 0⟩] ∧
      Text.line "RV.SETPARAM HighCutPost, 8000" = some [⟨0x50000C00, scalars 8000 0 0 0⟩] ∧
      Text.line "RV.PROC [1, 0], [−1, 0]" = some
        [⟨0x52000000, ⟨.rat 2, .rat 0, .rat 0, .rat 0, rats [1, 0], rats [-1, 0]⟩⟩] ∧
      Text.line "RV.PROC" = none := by decide +kernel

theorem test_text_pseudo :
    Text.program ["AP.INIT 0, 2, 1/2", "RV.FREEZE on"] = some
        [⟨0x30000000, scalars 2 0 0 0⟩, ⟨0x31000000, scalars (1 / 2) 0 0 0⟩, ⟨0x50000A00, scalars 1 0 0 0⟩] ∧
      (Text.line "RV.BOOT 45/100, 1, 1, 1, 20, 20000, 0, 3/4, 2, 1, 0, 20, 20000").map (·.map (·.args.a0)) =
        some (rats p4Values) := by decide +kernel

/-! ## Ring buffer, vectors RB1 and RB2 -/

/-- RB1 after its first four writes. -/
def rbState (a : Operands) : State := (at0 (tinyCap 4) a).setRb 24 ⟨4, slots [10, 20, 30, 40]⟩

/-- RB1 after its five writes. -/
def rbFull (a : Operands) : State := (at0 (tinyCap 4) a).setRb 24 ⟨5, slots [50, 20, 30, 40]⟩

theorem test_rbWrite_wraps :
    (after (exec (.rbWrite 24) (rbState (scalars 50 0 0 0)))).blk.rb[24] = ⟨5, slots [50, 20, 30, 40]⟩ := by decide +kernel

theorem test_rbWrite_zero_is_unlisted :
    (after (exec (.rbWrite 24) (rbState (scalars 0 0 0 0)))).blk.rb[24].data = slots [0, 20, 30, 40] := by
  decide +kernel

theorem test_rbRead_interpolates : scalarsOut (exec (.rbRead 24) (rbFull (scalars (13 / 4) 0 0 0))) = rats [85 / 2] ∧
    (after (exec (.rbRead 24) (rbFull (scalars (13 / 4) 0 0 0)))).viol = [] := by decide +kernel

theorem test_rbRead_stale : scalarsOut (exec (.rbRead 24) (rbFull (scalars 0 0 0 0))) = rats [50] ∧
    (after (exec (.rbRead 24) (rbFull (scalars 0 0 0 0)))).viol = [.rbRange 24 (.rat 0)] := by decide +kernel

/-! ## Modulated delay, vectors MD2, MD3, MD6 and section 2 -/

/-- `MD[5]` with 2 samples, 1/16, 1/2, as MD2 (interpolated) and MD3 (nearest). -/
def mdState (interp : Bool) (a : Operands) : State :=
  (at0 (tinyCap 16) a).setMd 5 (delay 2 (1 / 16) (1 / 2) interp 0 [0, 0, 0, 0])

theorem test_mdSetp_boolean : (after (exec (.mdSetp 0) (at0 tiny (scalars 2 0 0 7)))).blk.md[0] =
    delay 2 0 0 true 0 [0, 0, 0, 0] := by decide +kernel

theorem test_mdSetp_not_integer : (after (exec (.mdSetp 0) (at0 tiny (scalars (5 / 2) 0 0 0)))).viol =
    [.operand (.mdSetp 0) .a0 (.rat (5 / 2))] := by decide +kernel

theorem test_mdProc_interpolated :
    (after (exec (.mdProc 5) (mdState true (block [1, 2, 3, 4])))).blk.md[5] =
      delay 2 (1 / 16) (1 / 2) true (1 / 4) [0, 1 / 2, 3 / 2, 5 / 2] ∧
    (after (exec (.mdProc 5) (mdState false (block [1, 2, 3, 4])))).blk.md[5].out = rats [0, 1, 2, 3] := by decide +kernel

theorem test_mdProc_out_of_window :
    let t := after (exec (.mdProc 5) ((at0 (tinyCap 4) (block [1, 2, 3, 4])).setMd 5 (delay 3 0 0 false 0 [0, 0, 0, 0])))
    t.blk.md[5].out = rats [2, 3, 4, 1] ∧ t.viol = (rats [-3, -2, -1]).map (.rbRange 5) := by decide +kernel

theorem test_mdGeto : blocksOut 4 (exec (.mdGeto 5) ((at0 tiny Operands.none).setMd 5 (delay 2 0 0 false 0 [7, 8, 5, 6]))) =
    [rats [7, 8, 5, 6]] := by decide +kernel

/-! ## Modulated allpass, vectors AP1, AP4, AP6 -/

/-- `AP[0]` with delay 2 and feedback 1/2, in a form. -/
def apState (form : ApForm) (a : Operands) : State :=
  ((at0 { tinyCap 8 with apForm := form } a).setMd 4 (delay 2 0 0 false 0 [0, 0, 0, 0])).setAp 0
    (allpass (1 / 2) [0, 0, 0, 0])

theorem test_apSetp : (after (exec (.apSetp 0) (at0 tiny (scalars 2 0 0 0)))).blk.md[4] =
    delay 2 0 0 false 0 [0, 0, 0, 0] := by decide +kernel

theorem test_apSetfb_out_of_range : (after (exec (.apSetfb 0) (at0 tiny (scalars 1 0 0 0)))).blk.ap[0].fb = .rat 1 ∧
    (after (exec (.apSetfb 0) (at0 tiny (scalars 1 0 0 0)))).viol = [.apFb 0 (.rat 1)] := by decide +kernel

theorem test_apProc_schroeder :
    let t := after (exec (.apProc 0) (apState .schroeder (block [1, 0, 0, 0])))
    t.blk.ap[0].out = rats [-1 / 2, 0, 3 / 4, 0] ∧ t.blk.rb[4] = ⟨4, slots [1, 0, 1 / 2]⟩ := by decide +kernel

theorem test_apProc_literal :
    (after (exec (.apProc 0) (apState .literal (block [1, 0, 0, 0])))).blk.ap[0].out = rats [-1 / 2, 0, 1, 0] := by decide +kernel

theorem test_apGeto : blocksOut 4 (exec (.apGeto 0) ((at0 tiny Operands.none).setAp 0 (allpass (1 / 2) [3, 0, 1, 0]))) =
    [rats [3, 0, 1, 0]] := by decide +kernel

/-! ## Biquad, vectors BQ1, BQ5, BQ8 and section 2 -/

/-- A filter with the coefficients of BQ1. -/
def bqVector : Biquad := filter .lowPass12 12000 48000 (coeffs (1 / 2) (1 / 4) (1 / 8) (-1 / 2) (1 / 4))

theorem test_bqSettype : (after (exec (.bqSettype 2 .highPass6) (at0 tiny Operands.none))).blk.bq[2].type = .highPass6 := by
  decide +kernel

theorem test_bqSetfreq : (after (exec (.bqSetfreq 3) (at0 tiny (scalars 20 0 0 0)))).blk.bq[3].freq = .rat 20 := by decide +kernel

theorem test_bqSetfs : (after (exec (.bqSetfs 1) (at0 tiny (scalars 44100 0 0 0)))).blk.bq[1].fs = .rat 44100 := by decide +kernel

theorem test_bqSetfs_zero : (after (exec (.bqSetfs 0) (at0 tiny (scalars 0 0 0 0)))).viol = [.operand (.bqSetfs 0) .a0 (.rat 0)] := by
  decide +kernel

/-- R139 at 0 Hz, R134: the default 6 dB high-pass has p = 1, an all-pass. -/
theorem test_bqUpdate_at_zero :
    (after (exec (.bqUpdate 0) ((at0 .testDefault Operands.none).setBq 0
      (filter .highPass6 0 48000 Coeffs.zero)))).blk.bq[0].coeffs = coeffs 1 (-1) 0 (-1) 0 := by decide +kernel

theorem test_bqProc_vector :
    let o := exec (.bqProc 0) ((at0 tiny (block [1, 0, 0, 0])).setBq 0 bqVector)
    blocksOut 4 o = [rats [1 / 2, 1 / 2, 1 / 4, 0]] ∧ (after o).blk.bq[0].y2 = .rat (1 / 4) ∧ (after o).viol = [] := by decide +kernel

theorem test_bqProc_at_reset :
    let o := exec (.bqProc 0) (at0 tiny (block [1, 2, 3, 4]))
    blocksOut 4 o = [rats [0, 0, 0, 0]] ∧ (after o).blk.bq[0].x1 = .rat 4 ∧ (after o).blk.bq[0].x2 = .rat 3 ∧
      (after o).viol = [.bqParam 0 (.rat 0) (.rat 48000)] := by decide +kernel

/-! ## Reverb engine, worked examples of R155 to R168, vectors RV2 and RV4, program P4 -/

/-- The thirteen values of P4's boot. -/
def p4Params : Vector NUM 13 := ⟨(rats p4Values).toArray, rfl⟩

/-- The state of P4 with its parameters written and everything derived from them. -/
def p4State (a : Operands) : State :=
  { ((State.resetWith tiny).setRv { (State.resetWith tiny).blk.rv with p := p4Params }).updateAll with args := a, viol := [] }

theorem test_rvSetDecay : (after (exec .rvSetDecay (p4State (scalars (45 / 100) 0 0 0)))).blk.rv.krt = .rat (1 / 10) := by decide +kernel

theorem test_rvSetSizeEarly :
    (after (exec .rvSetSizeEarly (p4State (scalars (1 / 2) 0 0 0)))).blk.md[5].delaySamples = 1 ∧
    (after (exec .rvSetSizeEarly (p4State (scalars (-1) 0 0 0)))).viol = [.operand .rvSetSizeEarly .a0 (.rat (-1))] := by decide +kernel

theorem test_rvSetSizeLate :
    let t := after (exec .rvSetSizeLate (p4State (scalars (1 / 4) 0 0 0)))
    (t.blk.md[3].delaySamples, t.blk.md[17].delaySamples, t.blk.md[4].delaySamples) = (1, 1, 2) := by decide +kernel

theorem test_rvSetDiffuse :
    (after (exec .rvSetDiffuse (p4State (scalars (1 / 2) 0 0 0)))).blk.ap[19].fb = .rat (745 / 1000) := by decide +kernel

theorem test_rvSetLowCutPre : (after (exec .rvSetLowCutPre (p4State (scalars 100 0 0 0)))).blk.bq[1].freq = .rat 100 := by
  decide +kernel

theorem test_rvSetHighCutPre : (after (exec .rvSetHighCutPre (p4State (scalars 100 0 0 0)))).blk.bq[0].freq = .rat 100 := by
  decide +kernel

theorem test_rvSetModulate :
    let t := after (exec .rvSetModulate (p4State (scalars (1 / 2) 0 0 0)))
    (t.blk.md[0].modAmount, t.blk.md[1].modAmount, t.blk.md[23].modAmount) = (.rat 100, .rat (25 / 2), .rat (25 / 2)) := by decide +kernel

/-- RV2, Mix corner cases. -/
theorem test_rvSetMix :
    [0, 1 / 4, 1 / 2, 3 / 4, 1, 2, -1].map (fun v =>
      let t := after (exec .rvSetMix (p4State (scalars v 0 0 0)))
      [t.blk.rv.wet, t.blk.rv.dry]) = [rats [0, 1], rats [1 / 2, 1], rats [1, 1], rats [1, 1 / 2], rats [1, 0], rats [1, 0],
        rats [0, 1]] := by decide +kernel

theorem test_rvSetEarlyStages : (after (exec .rvSetEarlyStages (p4State (scalars 12 0 0 0)))).param .earlyStages = .rat 12 ∧
    (after (exec .rvSetEarlyStages (p4State (scalars 13 0 0 0)))).viol = [.operand .rvSetEarlyStages .a0 (.rat 13)] := by decide +kernel

theorem test_rvSetInterpolation :
    (after (exec .rvSetInterpolation (p4State (scalars 0 0 0 0)))).blk.md[23].interp = false := by decide +kernel

/-- Section 2, boolean reading: −1 is stored as −1 and read as frozen at the next block. -/
theorem test_rvSetFreeze : (after (exec .rvSetFreeze (p4State (scalars (-1) 0 0 0)))).param .freeze = .rat (-1) ∧
    (after (exec .rvSetFreeze (p4State (scalars (-1) 0 0 0)))).smoothFreeze.blk.rv.activeKrt = .rat (29 / 200) := by decide +kernel

theorem test_rvSetLowCutPost : (after (exec .rvSetLowCutPost (p4State (scalars 100 0 0 0)))).blk.bq[3].freq = .rat 100 := by
  decide +kernel

theorem test_rvSetHighCutPost : (after (exec .rvSetHighCutPost (p4State (scalars 100 0 0 0)))).blk.bq[2].freq = .rat 100 := by
  decide +kernel

/-- R168 (a), at reset. -/
theorem test_rvUpdateall_at_reset :
    let t := after (exec .rvUpdateall (at0 tiny Operands.none))
    [t.blk.rv.krt, t.blk.rv.tankFb, t.blk.rv.wet, t.blk.rv.dry] = rats [1, 99 / 100, 0, 1] := by decide +kernel

/-- P4, packet 13, with the block 0 column of its intermediate values. -/
theorem test_rvProc_p4 :
    let t := after (exec .rvProc (p4State (stereo [1, 0, 0, 0] [1, 0, 0, 0])))
    t.outbox.map (fun a => (a.xout0, a.xout1)) = [(rats [1 / 2, 0, 0, 0], rats [1 / 2, 0, 0, 0])] ∧
      t.blk.rv.tankIn = rats [1 / 4, 0, -3 / 8, -3 / 8] ∧ t.blk.rb[0].wc = 4 ∧ t.viol = [] := by decide +kernel

/-- RV4. -/
theorem test_rvProc_before_boot :
    let t := after (exec .rvProc (at0 tiny (stereo [0, 0, 0, 0] [0, 0, 0, 0])))
    t.viol = [.rvParam (.rat 0)] ∧ t.blk.rv.smoothedFreeze = .rat 0 ∧ t.blk.rb[0].wc = 0 := by decide +kernel

/-! ## Granular pitch shifter, vectors GP2, GP5 and section 2 -/

/-- GP2 after its first block, two draws consumed. -/
def gpState (a : Operands) : State :=
  ((at0 { tiny with rng := .listed (rats [1 / 300, 1 / 2, 0, 0, 1 / 150, 1 / 4, 0, 1 / 2]) } a).setRb 24
    ⟨4, slots [1, 2, 3, 4]⟩).setGp ⟨.rat 1, ⟨0, 2⟩, [grain (-4) 4 1 0, grain 0 6 1 1]⟩

theorem test_gpSetspeed : (after (exec .gpSetspeed (at0 tiny (scalars 0 0 0 0)))).blk.gp.speed = .rat 0 ∧
    (after (exec .gpSetspeed (at0 tiny (scalars 0 0 0 0)))).viol = [.gpRange (.rat 0)] := by decide +kernel

theorem test_gpSeed : (after (exec .gpSeed (gpState (scalars 7 0 0 0)))).blk.gp.rng = ⟨7, 0⟩ := by decide +kernel

theorem test_gpSeed_negative : (after (exec .gpSeed (at0 tiny (scalars (-1) 0 0 0)))).viol = [.operand .gpSeed .a0 (.rat (-1))] := by
  decide +kernel

theorem test_gpProc_second_block :
    let o := exec .gpProc (gpState (block [5, 6, 7, 8]))
    blocksOut 4 o = [rats [14 / 27, 20 / 9, 11 / 2, 208 / 27]] ∧
      (after o).blk.gp = ⟨.rat 1, ⟨0, 4⟩, [grain 1 4 1 4, grain 0 6 1 5]⟩ ∧ (after o).viol = [] := by decide +kernel

theorem test_gpProc_first_block :
    let o := exec .gpProc (at0 { tiny with rng := .listed (rats [1 / 300, 1 / 2]) } (block [1, 2, 3, 4]))
    blocksOut 4 o = [rats [0, 0, 0, 0]] ∧ (after o).blk.gp.grains = [grain (-4) 4 1 0, grain 0 6 1 1] := by decide +kernel

/-! ## Irrational values: operands that are no rationals, and results -/

/-- R169 at Decay 0.1, SizeLate 1/4: `Krt = 10^(−9/4)`, of which this is the integer part of `10^9·Krt` by hand. -/
theorem test_krt_irrational :
    ((after (exec .rvSetDecay ((p4State (scalars 0 0 0 0)).setParam .sizeLate (.rat (1 / 4))))).blk.rv.krt.mul
      (.rat (10 ^ 9))).floor = 5623413 := by decide +kernel

/-- R134, the worked example: LowPass12 at 12000 Hz of 48000, nine decimals. -/
theorem test_bqUpdate_worked_example :
    let c := defaultDesign .lowPass12 (.rat 12000) (.rat 48000)
    (([c.b0, c.b1, c.b2, c.a2].map fun v => roundHalfUp (v.mul (.rat (10 ^ 9)))) =
      [292893219, 585786438, 292893219, 171572875]) ∧ c.a1 = .rat 0 := by decide +kernel

/-- Section 4 of 43_biquad.md: LowPass6 at fs/2 has `p = exp(−PI) = 0.0432139`. -/
theorem test_exp_minus_pi :
    roundHalfUp ((NUM.rat (1 / 2)).expNegTurns.mul (.rat (10 ^ 7))) = 432139 := by decide +kernel

/-- R199: for six grains the factor is 0.577350269. -/
theorem test_grainNorm_six :
    roundHalfUp ((grainNorm { tiny with numGrains := 6 }).mul (.rat (10 ^ 9))) = 577350269 := by decide +kernel

/-- R102, R13: a read at the irrational position `sqrt(2) = 1.41421356…` of a ramp gives the position. -/
theorem test_rbRead_irrational :
    ((scalarsOut (exec (.rbRead 24) ((at0 (tinyCap 4) ⟨(NUM.rat 2).sqrt, .rat 0, .rat 0, .rat 0, [], []⟩).setRb 24
      ⟨4, slots [0, 1, 2, 3]⟩))).map fun v => (v.mul (.rat (10 ^ 8))).floor) = [141421356] := by decide +kernel

/-! ## Witnesses: for every statement with hypotheses, a state and operands that meet them together -/

theorem witness_DecodeInvertsEncode : (Instr.rbWrite 24).wf = true ∧ (Instr.mdProc 23).wf = true ∧
    (Instr.apGeto 19).wf = true ∧ (Instr.bqSettype 3 .highPass6).wf = true := by decide

theorem witness_EncodeInvertsDecode : decode 0x40020200 = .ok (.bqSettype 2 .highPass12) := by decide

/-- The last legal word and the first illegal one of the RB row, and a waiting packet with an illegal word. -/
theorem witness_LegalWordsDecodeOthersAreRefused : legalWord 0x10180000 ∧ ¬ legalWord 0x10190000 ∧
    (State.reset.withFetchWord 32 0x10190000).queue = [⟨0x10190000, Operands.none⟩] := by
  refine ⟨by unfold legalWord; decide, by unfold legalWord; decide, by decide +kernel⟩

theorem witness_StepRunsTheDecodedOperation :
    (State.reset.withFetchWord 32 0x43010000).queue = [⟨0x43010000, Operands.none⟩] ∧
      decode 0x43010000 = .ok (.bqUpdate 1) ∧ State.reset.queue = [] := by decide +kernel

theorem witness_EveryPacketIsAnswered :
    (State.reset.withFetchWord 32 0x00000000).queue = [⟨0x00000000, Operands.none⟩] := by decide +kernel

theorem witness_RbWriteStoresAtTheCursor :
    Memory.wf (rbState (scalars 50 0 0 0)).cfg.rbCap[24] (rbState (scalars 50 0 0 0)).blk.rb[24].data = true := by
  decide +kernel

/-- The oldest sample still in the window: five written, capacity 4, sample 1; a position given as a rational and one given as
an expression of the same value. -/
theorem witness_ReadReturnsTheWrittenSample : (1 < (rats [10, 20, 30, 40, 50]).length) ∧
    (tinyCap 4).quant = .identity ∧ 1 ≤ (tinyCap 4).rbCap[24] ∧ Memory.wf (tinyCap 4).rbCap[24] [] = true ∧
    (rats [10, 20, 30, 40, 50]).length ≤ 1 + (tinyCap 4).rbCap[24] ∧ (NUM.rat 1).val = (0 + 1 : Nat) ∧
    (NUM.root (.rat 1)).val = (0 + 1 : Nat) :=
  ⟨by decide, rfl, by decide, rfl, by decide, by simp, by simp [NUM.val]⟩

/-- RB3: one sample written, capacity 4, the oldest index of the window and the index −1. -/
theorem witness_StartUpReadsSilence : (tinyCap 4).quant = .identity ∧ 1 ≤ (tinyCap 4).rbCap[24] ∧
    (((rats [7]).length : Nat) : Int) - (tinyCap 4).rbCap[24] ≤ -3 ∧ (-3 : Int) < 0 ∧ (NUM.rat (-3)).val = (-3 : Int) ∧
    (((rats [7]).length : Nat) : Int) - (tinyCap 4).rbCap[24] ≤ -1 ∧ (-1 : Int) < 0 ∧ (NUM.rat (-1)).val = (-1 : Int) :=
  ⟨rfl, by decide, by decide, by decide, by simp, by decide, by decide, by simp⟩

theorem witness_CursorsNeverDecrease : ∃ t, exec (.mdProc 5) (mdState true (block [1, 2, 3, 4])) = .next t := ⟨_, rfl⟩

theorem not_natural {n : Nat} : (NUM.rat (5 / 2)).val ≠ n := by
  intro h
  rw [NUM.val_rat] at h
  push_cast at h
  have h2 : (5 : ℝ) = 2 * n := by linarith
  have h3 : 5 = 2 * n := by exact_mod_cast h2
  omega

/-- The scalar operand of a test is the rational it is built from. -/
theorem scalar_val (p : Params) {a0 a1 a2 a3 : ℚ} {x : ℝ} (h : (a0 : ℝ) = x) : (at0 p (scalars a0 a1 a2 a3)).args.a0.val = x := h

theorem witness_MdSetpWritesFourFields : (at0 tiny (scalars 0 0 0 1)).args.a0.val = (0 : Nat) ∧
    (at0 tiny (scalars 2 0 0 1)).args.a0.val = (2 : Nat) ∧ ∀ n : Nat, (at0 tiny (scalars (5 / 2) 0 0 0)).args.a0.val ≠ n :=
  ⟨scalar_val tiny (by norm_num), scalar_val tiny (by norm_num), fun _ => not_natural⟩

/-- Both ends of the range of `bufSize`. -/
theorem witness_MdProcWritesThenReads :
    (∀ x ∈ [[], [1, 2, 3, 4]], let s := mdState true (block x)
      s.args.a0.val = x.length ∧ x.length ≤ s.cfg.blockSize ∧ x.length ≤ s.args.xin0.length ∧
        Memory.wf s.cfg.rbCap[rbOfMd 5] s.blk.rb[rbOfMd 5].data = true ∧ 1 ≤ s.cfg.rbCap[rbOfMd 5]) := by
  have h : ∀ x ∈ [[], [1, 2, 3, 4]], let s := mdState true (block x)
      x.length ≤ s.cfg.blockSize ∧ x.length ≤ s.args.xin0.length ∧
        Memory.wf s.cfg.rbCap[rbOfMd 5] s.blk.rb[rbOfMd 5].data = true ∧ 1 ≤ s.cfg.rbCap[rbOfMd 5] := by decide +kernel
  exact fun x hx => ⟨NUM.val_ofNat _, h x hx⟩

theorem witness_PureDelayStream : (tinyCap 8).quant = .identity ∧ 1 ≤ (tinyCap 8).rbCap[rbOfMd 5] ∧ (NUM.rat 0).val = 0 ∧
    (∀ x ∈ [rats [1, 2, 3, 4], rats [5, 6]], x.length ≤ (tinyCap 8).blockSize ∧ 4 + x.length ≤ (tinyCap 8).rbCap[rbOfMd 5]) ∧
    5 < [rats [1, 2, 3, 4], rats [5, 6]].flatten.length :=
  ⟨rfl, by decide, by simp, by decide +kernel, by decide⟩

/-- The tightest window: depth equal to the delay, delay + depth + block equal to the capacity. -/
theorem witness_DelayWindowSuffices :
    let s := (at0 (tinyCap 8) Operands.none).setMd 5 (delay 2 (1 / 16) (-2) true 0 [0, 0, 0, 0])
    s.blk.md[(5 : Fin 24)].inDelayWindow s.cfg.rbCap[rbOfMd 5] (rats [1, 2, 3, 4]).length := by
  show |((-2 : ℚ) : ℝ)| ≤ ((2 : Int) : ℝ) ∧ ((2 : Int) : ℝ) + |((-2 : ℚ) : ℝ)| + ((4 : Nat) : ℝ) ≤ ((8 : Nat) : ℝ)
  norm_num

theorem witness_ApSetpIsMdSetpOfTheOwnedDelay : (at0 tiny (scalars 0 0 0 1)).args.a0.val = (0 : Nat) :=
  scalar_val tiny (by norm_num)

theorem witness_ApProcReadsThenWrites :
    (∀ x ∈ [[], [1, 2, 3, 4]], let s := apState .literal (block x)
      s.args.a0.val = x.length ∧ x.length ≤ s.cfg.blockSize ∧ x.length ≤ s.args.xin0.length ∧
        Memory.wf s.cfg.rbCap[rbOfMd (mdOfAp 0)] s.blk.rb[rbOfMd (mdOfAp 0)].data = true ∧
        1 ≤ s.cfg.rbCap[rbOfMd (mdOfAp 0)]) := by
  have h : ∀ x ∈ [[], [1, 2, 3, 4]], let s := apState .literal (block x)
      x.length ≤ s.cfg.blockSize ∧ x.length ≤ s.args.xin0.length ∧
        Memory.wf s.cfg.rbCap[rbOfMd (mdOfAp 0)] s.blk.rb[rbOfMd (mdOfAp 0)].data = true ∧
        1 ≤ s.cfg.rbCap[rbOfMd (mdOfAp 0)] := by decide +kernel
  exact fun x hx => ⟨NUM.val_ofNat _, h x hx⟩

/-- The shortest and the longest delay of a buffer of 8, a stream in two blocks, and a state with depth 0. -/
theorem witness_AllpassRecurrence : (tinyCap 8).quant = .identity ∧
    (∀ d ∈ [1, 8], 1 ≤ d ∧ d ≤ (tinyCap 8).rbCap[rbOfMd (mdOfAp 0)]) ∧ (NUM.rat 0).val = 0 ∧
    5 < [rats [1, 0, 0, 0], rats [0, 2]].flatten.length ∧
    (apState .literal Operands.none).blk.md[mdOfAp 0].modAmount.val = 0 :=
  ⟨rfl, by decide +kernel, by simp, by decide, by show ((0 : ℚ) : ℝ) = 0; simp⟩

/-- Index 0, a multiple of the delay, an index that is none, the last index; an impulse in two blocks; both forms. -/
theorem witness_AllpassImpulseResponse : (tinyCap 8).quant = .identity ∧ 1 ≤ 2 ∧
    2 ≤ (tinyCap 8).rbCap[rbOfMd (mdOfAp 0)] ∧ (NUM.rat 0).val = 0 ∧
    numbers [rats [1, 0, 0, 0], rats [0, 0]].flatten = 1 :: List.replicate 5 0 ∧
    (∀ n ∈ [0, 4, 5], n ≤ 5) ∧ 2 ∣ 4 ∧ ¬ 2 ∣ 5 ∧ (tinyCap 8).apForm = .schroeder ∧
    (apState .literal Operands.none).cfg.apForm = .literal :=
  ⟨rfl, by decide, by decide, by simp, by simp [numbers, rats], by decide, by decide, by decide, rfl, rfl⟩

theorem witness_AllpassWindowSuffices :
    let s := (at0 (tinyCap 7) Operands.none).setMd 4 (delay 4 (1 / 16) (-3) true 0 [0, 0, 0, 0])
    s.blk.md[mdOfAp 0].inAllpassWindow s.cfg.rbCap[rbOfMd (mdOfAp 0)] := by
  show 1 ≤ ((4 : Int) : ℝ) - |((-3 : ℚ) : ℝ)| ∧ ((4 : Int) : ℝ) + |((-3 : ℚ) : ℝ)| ≤ ((7 : Nat) : ℝ)
  norm_num

theorem witness_BqSettersWriteOneField : 0 < (at0 tiny (scalars (1 / 1000) 0 0 0)).args.a0.val ∧
    (at0 tiny (scalars 0 0 0 0)).args.a0.val ≤ 0 := by
  rw [scalar_val tiny rfl, scalar_val tiny rfl]
  norm_num

theorem witness_BqProcSatisfiesTheDifferenceEquation :
    (∀ x ∈ [[], [1, 2, 3, 4]], let s := at0 tiny (block x)
      s.args.a0.val = x.length ∧ x.length ≤ s.cfg.blockSize ∧ x.length ≤ s.args.xin0.length) := by
  have h : ∀ x ∈ [[], [1, 2, 3, 4]], let s := at0 tiny (block x)
      x.length ≤ s.cfg.blockSize ∧ x.length ≤ s.args.xin0.length := by decide +kernel
  exact fun x hx => ⟨NUM.val_ofNat _, h x hx⟩

theorem witness_CoefficientsAreStaleUntilUpdate :
    (∃ t, exec (.bqSettype 0 .lowPass6) (at0 tiny (scalars 5 0 0 0)) = .next t) ∧
      (∃ t, exec (.bqSetfreq 0) (at0 tiny (scalars 5 0 0 0)) = .next t) ∧
      (∃ t, exec (.bqSetfs 0) (at0 tiny (scalars 5 0 0 0)) = .next t) ∧
      ∃ t, exec .rvUpdateall (at0 tiny Operands.none) = .next t := ⟨⟨_, rfl⟩, ⟨_, rfl⟩, ⟨_, rfl⟩, ⟨_, rfl⟩⟩

theorem witness_SixDbTypesAreFirstOrder : FilterType.lowPass6.isFirstOrder = true ∧
    FilterType.highPass6.isFirstOrder = true := by decide

theorem witness_NyquistLowPassIsTheIdentity :
    let f : Biquad := { bqVector with freq := .rat 24000 }
    0 < f.fs.val ∧ f.type = .lowPass12 ∧ f.freq.val = f.fs.val / 2 ∧ f.x1.val = 0 ∧ f.x2.val = 0 ∧ f.y1.val = 0 ∧
      f.y2.val = 0 := by
  simp only [bqVector, filter, NUM.val_rat, true_and]
  norm_num

theorem witness_DefaultDesignIsTheFormula : 0 < (NUM.rat 48000).val ∧ 0 < (NUM.rat 20).val := by
  simp only [NUM.val_rat]
  norm_num

/-- The ends of the defined domains, and a value outside. -/
theorem witness_SetparamStoresThenUpdatesAll : definedDomain .decay (.rat (-3)) ∧ definedDomain .sizeEarly (.rat 0) ∧
    definedDomain .sizeLate (.rat 0) ∧ definedDomain .earlyStages (.rat 1) ∧ definedDomain .earlyStages (.rat 12) ∧
    ¬ definedDomain .sizeEarly (.rat (-1 / 4)) := by
  refine ⟨trivial, ?_, ?_, ⟨1, by decide, by decide, by simp⟩, ⟨12, by decide, by decide, by simp⟩, ?_⟩
  · simp [definedDomain]
  · simp [definedDomain]
  · simp only [definedDomain, NUM.val_rat]; norm_num

theorem witness_UpdateAllMapsTheParameters : 0 ≤ ((p4State Operands.none).param .sizeLate).val := by
  rw [show (p4State Operands.none).param .sizeLate = .rat 1 by decide +kernel, NUM.val_rat]
  norm_num

theorem witness_UpdateAllIsIdempotent : ∃ t, exec .rvUpdateall (p4State Operands.none) = .next t ∧
    ∃ u, exec .rvUpdateall t = .next u := ⟨_, rfl, _, rfl⟩

/-- The ends of the ranges of Diffuse, in the order of the clauses. -/
theorem witness_DiffuseGivesTheTankFeedback :
    let v := fun q : ℚ => (at0 tiny (scalars q 0 0 0)).args.a0.val
    (0 ≤ v 0 ∧ v 0 ≤ 1) ∧ (0 ≤ v 1 ∧ v 1 ≤ 1) ∧ v 0 = 0 ∧ v 1 = 1 ∧ v (1 / 2) = 1 / 2 ∧ v (-1 / 49) ≤ -1 / 49 ∧
      99 / 49 < v (100 / 49) := by
  simp only [scalar_val tiny rfl]
  norm_num

/-- SizeLate 0, 1/4 and 1; at 1/4 and Decay 0.3, four round trips of 0.075 s last as long as the decay. -/
theorem witness_LoopGainLaw : 0 ≤ (NUM.rat 0).val ∧ 0 < (NUM.rat (1 / 4)).val ∧ (NUM.rat 1).val = 1 ∧
    (NUM.rat (45 / 100)).val = 45 / 100 ∧ 0 < 15 / 100 * √(NUM.rat (1 / 4)).val ∧
    ((4 : Nat) : ℝ) * (15 / 100 * √(NUM.rat (1 / 4)).val) = max (NUM.rat (3 / 10)).val (1 / 10) := by
  have h : √(1 / 4 : ℝ) = 1 / 2 := by rw [show (1 / 4 : ℝ) = (1 / 2) ^ 2 by norm_num]; exact Real.sqrt_sq (by norm_num)
  simp only [NUM.val_rat]
  push_cast
  rw [h]
  norm_num

/-- A booted engine whose EarlyStages is `e`, with two blocks waiting as operands. -/
def engineState (e : ℚ) (l r : List ℚ) : State := (p4State (stereo l r)).setParam .earlyStages (.rat e)

theorem witness_engine_shape : (engineState 1 [1, 0, 0, 0] [1, 0, 0, 0]).shape ∧ (engineState 12 [1, 0, 0, 0] [1, 0, 0, 0]).shape := by
  refine ⟨?first, ?last⟩ <;> constructor <;> decide +kernel

theorem witness_engine_canonical : (engineState 1 [1, 0, 0, 0] [1, 0, 0, 0]).memoryCanonical := by
  unfold State.memoryCanonical
  decide +kernel

/-- The first and the last stage. -/
theorem witness_engine_ready : EngineReady (engineState 1 [1, 0, 0, 0] [1, 0, 0, 0]) 0 ∧
    EngineReady (engineState 12 [1, 0, 0, 0] [1, 0, 0, 0]) 11 := by
  refine ⟨⟨NUM.val_ofNat 4, by decide +kernel, by decide +kernel, ?_⟩, ⟨NUM.val_ofNat 4, by decide +kernel, by decide +kernel, ?_⟩⟩
  · rw [show (engineState 1 [1, 0, 0, 0] [1, 0, 0, 0]).param .earlyStages = .rat 1 by decide +kernel]; simp
  · rw [show (engineState 12 [1, 0, 0, 0] [1, 0, 0, 0]).param .earlyStages = .rat 12 by decide +kernel]
    rw [NUM.val_rat]; norm_num

theorem witness_RvProcWritesOnlyWhatItLists :
    let s := engineState 1 [1, 0, 0, 0] [1, 0, 0, 0]
    s.shape ∧ s.memoryCanonical ∧ EngineReady s 0 :=
  ⟨witness_engine_shape.1, witness_engine_canonical, witness_engine_ready.1⟩

theorem witness_RvProcSmoothsTapsAndMixes :
    let s := engineState 12 [1, 0, 0, 0] [1, 0, 0, 0]
    s.shape ∧ EngineReady s 11 ∧ ∃ t, exec .rvProc s = .next t :=
  ⟨witness_engine_shape.2, witness_engine_ready.2, _, rfl⟩

theorem witness_LanesReadThePreviousBlock :
    let s := engineState 1 [1, 0, 0, 0] [1, 0, 0, 0]
    s.shape ∧ EngineReady s 0 ∧ ∃ t, exec .rvProc s = .next t :=
  ⟨witness_engine_shape.1, witness_engine_ready.1, _, rfl⟩

/-- EarlyStages just outside its range at both ends, and a block size just above `B`. -/
theorem witness_RvProcRefusals :
    (∀ e ∈ [(0 : ℚ), 13], let s := engineState e [1, 0, 0, 0] [1, 0, 0, 0]
      s.args.a0.val = s.cfg.blockSize ∧ s.cfg.blockSize ≤ s.args.xin0.length ∧ s.cfg.blockSize ≤ s.args.xin1.length ∧
        ∀ n : Nat, 1 ≤ n → n ≤ 12 → (s.param .earlyStages).val ≠ n) ∧
      (at0 tiny (block [1, 2, 3, 4, 5])).args.a0.val ≠ tiny.blockSize := by
  have hp : ∀ e ∈ [(0 : ℚ), 13], (engineState e [1, 0, 0, 0] [1, 0, 0, 0]).param .earlyStages = .rat e := by decide +kernel
  have hl : ∀ e ∈ [(0 : ℚ), 13], let s := engineState e [1, 0, 0, 0] [1, 0, 0, 0]
      s.cfg.blockSize ≤ s.args.xin0.length ∧ s.cfg.blockSize ≤ s.args.xin1.length := by decide +kernel
  refine ⟨fun e he => ⟨NUM.val_ofNat 4, (hl e he).1, (hl e he).2, fun n h1 h2 hn => ?_⟩, ?_⟩
  · rw [hp e he, NUM.val_rat] at hn
    have hq : e = n := by exact_mod_cast hn
    rcases List.mem_cons.1 he with rfl | he
    · have : 0 = n := by exact_mod_cast hq
      omega
    · rw [List.mem_singleton.1 he] at hq
      have : 13 = n := by exact_mod_cast hq
      omega
  · rw [show (at0 tiny (block [1, 2, 3, 4, 5])).args.a0 = .rat 5 by decide +kernel, NUM.val_rat]
    show ((5 : ℚ) : ℝ) ≠ ((4 : Nat) : ℝ)
    norm_num

/-- The third clause at the lower end of `smoothedFreeze`'s range. -/
theorem witness_FreezeSmootherLaw :
    ((((p4State Operands.none).setParam .freeze (.rat (-1))).param .freeze).val ≠ 0 ∧
      ((p4State Operands.none).setParam .freeze (.rat (-1))).blk.rv.smoothedFreeze.val = 0) ∧
    ((p4State Operands.none).param .freeze).val = 0 ∧
    (0 ≤ (p4State Operands.none).blk.rv.smoothedFreeze.val ∧ (p4State Operands.none).blk.rv.smoothedFreeze.val < 1 ∧
      (p4State Operands.none).blk.rv.krt.val < 1) := by
  have h : ((p4State Operands.none).setParam .freeze (.rat (-1))).param .freeze = .rat (-1) ∧
      ((p4State Operands.none).setParam .freeze (.rat (-1))).blk.rv.smoothedFreeze = .rat 0 ∧
      (p4State Operands.none).param .freeze = .rat 0 ∧ (p4State Operands.none).blk.rv.smoothedFreeze = .rat 0 ∧
      (p4State Operands.none).blk.rv.krt = .rat (1 / 10) := by decide +kernel
  rw [h.1, h.2.1, h.2.2.1, h.2.2.2.1, h.2.2.2.2]
  simp only [NUM.val_rat]
  norm_num

theorem witness_SilenceInSilenceOut :
    let s := engineState 1 [0, 0, 0, 0] [0, 0, 0, 0]
    s.shape ∧ s.cfg.quant = .identity ∧ EngineReady s 0 ∧ Silent s.blk ∧ (∀ v ∈ s.args.xin0, v.val = 0) ∧
      ∀ v ∈ s.args.xin1, v.val = 0 := by
  have hs : (engineState 1 [0, 0, 0, 0] [0, 0, 0, 0]).shape := by constructor <;> decide +kernel
  have hz : ∀ {v : NUM}, v = .rat 0 → v.val = 0 := fun h => by simp [h]
  have hp : (engineState 1 [0, 0, 0, 0] [0, 0, 0, 0]).param .earlyStages = .rat 1 := by decide +kernel
  have hd : ∀ m : Fin 24, ∀ v ∈ (engineState 1 [0, 0, 0, 0] [0, 0, 0, 0]).blk.md[m].out, v = .rat 0 := by decide +kernel
  have ha : ∀ a : Fin 20, ∀ v ∈ (engineState 1 [0, 0, 0, 0] [0, 0, 0, 0]).blk.ap[a].out, v = .rat 0 := by decide +kernel
  have hx : ∀ v ∈ rats [0, 0, 0, 0], v = .rat 0 := by decide +kernel
  refine ⟨hs, rfl, ⟨NUM.val_ofNat 4, by decide +kernel, by decide +kernel, by rw [hp]; simp⟩,
    ⟨by decide +kernel, fun m v hv => hz (hd m v hv), fun a v hv => hz (ha a v hv), ?_⟩, fun v hv => hz (hx v hv),
    fun v hv => hz (hx v hv)⟩
  have hq : ∀ q : Fin 4, let f := (engineState 1 [0, 0, 0, 0] [0, 0, 0, 0]).blk.bq[q]
      f.x1 = .rat 0 ∧ f.x2 = .rat 0 ∧ f.y1 = .rat 0 ∧ f.y2 = .rat 0 := by decide +kernel
  exact fun q => ⟨hz (hq q).1, hz (hq q).2.1, hz (hq q).2.2.1, hz (hq q).2.2.2⟩

theorem witness_EngineIgnoresThePitchShifter :
    ∃ t, exec .rvProc (engineState 1 [1, 0, 0, 0] [1, 0, 0, 0]) = .next t := ⟨_, rfl⟩

theorem witness_GpSettersWriteOneRegister : (at0 tiny (scalars 0 0 0 0)).args.a0.val = (0 : Nat) ∧
    (at0 tiny (scalars 7 0 0 0)).args.a0.val = (7 : Nat) :=
  ⟨scalar_val tiny (by norm_num), scalar_val tiny (by norm_num)⟩

theorem witness_GpProcWritesOnlyTheShifter :
    (∀ x ∈ [[], [5, 6, 7, 8]], let s := gpState (block x)
      s.args.a0.val = x.length ∧ x.length ≤ s.cfg.blockSize ∧ x.length ≤ s.args.xin0.length ∧
        Memory.wf s.cfg.rbCap[24] s.blk.rb[24].data = true ∧ 1 ≤ s.cfg.rbCap[24]) := by
  have h : ∀ x ∈ [[], [5, 6, 7, 8]], let s := gpState (block x)
      x.length ≤ s.cfg.blockSize ∧ x.length ≤ s.args.xin0.length ∧
        Memory.wf s.cfg.rbCap[24] s.blk.rb[24].data = true ∧ 1 ≤ s.cfg.rbCap[24] := by decide +kernel
  exact fun x hx => ⟨NUM.val_ofNat _, h x hx⟩

/-- Both ends of the range of `bufSize`, over a pool with a grain that reaches the end of its window exactly and goes on, and
one that passes it. -/
theorem witness_GpProcPlaysEveryGrain :
    (∀ x ∈ [[], [5, 6, 7, 8]], let s := (gpState (block x)).setGp ⟨.rat 1, ⟨0, 0⟩, [grain 0 4 1 3, grain 0 4 1 4]⟩
      s.args.a0.val = x.length ∧ x.length ≤ s.cfg.blockSize ∧ x.length ≤ s.args.xin0.length) ∧
      (grain 0 4 1 3).advance.expired = false ∧ (grain 0 4 1 4).advance.expired = true := by
  have h : ∀ x ∈ [[], [5, 6, 7, 8]], let s := (gpState (block x)).setGp ⟨.rat 1, ⟨0, 0⟩, [grain 0 4 1 3, grain 0 4 1 4]⟩
      x.length ≤ s.cfg.blockSize ∧ x.length ≤ s.args.xin0.length := by decide +kernel
  exact ⟨fun x hx => ⟨NUM.val_ofNat _, h x hx⟩, by decide +kernel, by decide +kernel⟩

theorem witness_WindowLaw : 0 ≤ (NUM.rat 0).val ∧ (NUM.rat 0).val ≤ 1 / 2 ∧ (NUM.rat (1 / 2)).val = (NUM.rat 0).val + 1 / 2 := by
  simp only [NUM.val_rat]
  norm_num

theorem witness_ReseedPlacesTheGrain : 0 < tiny.grainLen.val := by
  rw [show tiny.grainLen = .rat 4 from rfl, NUM.val_rat]
  norm_num

theorem above_block {b n : Nat} (hb : b = 4) (h : n ≤ b) : (NUM.ofNat 5).val ≠ n := by
  intro h2
  rw [NUM.val_ofNat] at h2
  have h3 : 5 = n := by exact_mod_cast h2
  omega

/-- One packet for every clause: the operand refusals of 95_test_vectors.md section 2 and their fellows. -/
theorem witness_IllTypedOperandsAreRefused :
    let half := at0 tiny (scalars (5 / 2) 0 0 0)
    let five := at0 tiny (block [1, 2, 3, 4, 5])
    let below := at0 tiny (scalars (-1 / 4) 0 0 0)
    illTyped half (.mdSetp 23) ∧ illTyped half (.apSetp 19) ∧ illTyped five (.mdProc 23) ∧ illTyped five (.apProc 19) ∧
      illTyped five (.bqProc 3) ∧ illTyped five .gpProc ∧ illTyped (at0 tiny (scalars 0 0 0 0)) (.bqSetfs 3) ∧
      illTyped half .gpSeed ∧ illTyped five .rvProc ∧ illTyped below .rvSetSizeEarly ∧ illTyped below .rvSetSizeLate ∧
      illTyped (at0 tiny (scalars 13 0 0 0)) .rvSetEarlyStages := by
  refine ⟨⟨by decide, fun n => not_natural⟩, ⟨by decide, fun n => not_natural⟩, ⟨by decide, fun n h => above_block rfl h⟩,
    ⟨by decide, fun n h => above_block rfl h⟩, ⟨by decide, fun n h => above_block rfl h⟩, fun n h => above_block rfl h,
    ⟨by decide, le_of_eq (scalar_val tiny (by norm_num))⟩, fun n => not_natural, above_block (b := 4) rfl le_rfl, ?_, ?_, ?_⟩
  · show ((-1 / 4 : ℚ) : ℝ) < 0
    norm_num
  · show ((-1 / 4 : ℚ) : ℝ) < 0
    norm_num
  · intro n h1 h2 h3
    have h4 : ((13 : ℚ) : ℝ) = n := h3
    have h5 : 13 = n := by exact_mod_cast h4
    omega

/-- For each clause an operation of its list that does change the register: storages, delays and allpasses. -/
theorem witness_RegistersAreWrittenOnlyByTheirOperations_delays :
    let s := p4State (scalars (1 / 2) 0 0 0)
    let z := at0 tiny (scalars 2 1 1 1)
    let m := mdState true (block [1, 2, 3, 4])
    (after (exec (.rbWrite 24) s)).blk.rb[24] ≠ s.blk.rb[24] ∧
      (after (exec (.mdSetp 5) z)).blk.md[5].delaySamples ≠ z.blk.md[5].delaySamples ∧
      (after (exec (.mdSetp 5) z)).blk.md[5].modRate ≠ z.blk.md[5].modRate ∧
      (after (exec (.mdSetp 5) z)).blk.md[5].modAmount ≠ z.blk.md[5].modAmount ∧
      (after (exec (.mdSetp 5) z)).blk.md[5].interp ≠ z.blk.md[5].interp ∧
      (after (exec (.mdProc 5) m)).blk.md[5].phase ≠ m.blk.md[5].phase ∧
      (after (exec (.mdProc 5) m)).blk.md[5].out ≠ m.blk.md[5].out ∧
      (after (exec (.apSetfb 12) (p4State (scalars (1 / 4) 0 0 0)))).blk.ap[12].fb ≠ s.blk.ap[12].fb ∧
      (after (exec (.apProc 0) (apState .literal (block [1])))).blk.ap[0].out ≠
        (apState .literal (block [1])).blk.ap[0].out := by decide +kernel

/-- The same for the filters. -/
theorem witness_RegistersAreWrittenOnlyByTheirOperations_filters :
    let s := p4State (scalars (1 / 2) 0 0 0)
    let b := p4State (block [1, 2])
    (after (exec (.bqSettype 3 .highPass6) s)).blk.bq[3].type ≠ s.blk.bq[3].type ∧
      (after (exec (.bqSetfreq 3) s)).blk.bq[3].freq ≠ s.blk.bq[3].freq ∧
      (after (exec (.bqSetfs 3) s)).blk.bq[3].fs ≠ s.blk.bq[3].fs ∧
      (after (exec (.bqUpdate 3) (at0 tiny Operands.none))).blk.bq[3].coeffs ≠ (at0 tiny Operands.none).blk.bq[3].coeffs ∧
      (after (exec (.bqProc 3) b)).blk.bq[3].x1 ≠ b.blk.bq[3].x1 ∧ (after (exec (.bqProc 3) b)).blk.bq[3].x2 ≠ b.blk.bq[3].x2 ∧
      (after (exec (.bqProc 3) b)).blk.bq[3].y1 ≠ b.blk.bq[3].y1 ∧ (after (exec (.bqProc 3) b)).blk.bq[3].y2 ≠ b.blk.bq[3].y2 := by
  decide +kernel

/-- The same for the engine and the pitch shifter. -/
theorem witness_RegistersAreWrittenOnlyByTheirOperations_engine :
    let s := p4State (scalars (1 / 2) 0 0 0)
    let z := at0 tiny Operands.none
    let u := (after (exec .rvUpdateall z)).blk.rv
    let e := (engineState 1 [1, 0, 0, 0] [1, 0, 0, 0]).setMd 0 (delay 4 0 0 false 0 [1, 0, 0, 0])
    let v := (after (exec .rvProc (e.setParam .freeze (.rat 1)))).blk.rv
    let g := gpState (block [5, 6, 7, 8])
    (after (exec .rvSetDecay s)).param .decay ≠ s.param .decay ∧
      (u.krt ≠ z.blk.rv.krt ∧ u.tankFb ≠ z.blk.rv.tankFb ∧ u.dry ≠ z.blk.rv.dry) ∧
      (after (exec .rvSetMix (at0 tiny (scalars 1 0 0 0)))).blk.rv.wet ≠ z.blk.rv.wet ∧
      (v.smoothedFreeze ≠ e.blk.rv.smoothedFreeze ∧ v.activeKrt ≠ e.blk.rv.activeKrt ∧ v.prev ≠ e.blk.rv.prev ∧
        v.mono ≠ e.blk.rv.mono ∧ v.tankIn ≠ e.blk.rv.tankIn) ∧
      (after (exec .gpSetspeed s)).blk.gp.speed ≠ s.blk.gp.speed ∧ (after (exec .gpProc g)).blk.gp.grains ≠ g.blk.gp.grains ∧
      (after (exec .gpSeed (gpState (scalars 7 0 0 0)))).blk.gp.rng ≠ g.blk.gp.rng := by decide +kernel

/-- A reset state with a waiting packet, for the invariants that every step keeps. -/
def waiting : State := (State.resetWith tiny).withFetchWord 32 0x60000000

theorem witness_StepKeepsMemoryCanonical : waiting.memoryCanonical ∧ ∃ t, step waiting = .next t := by
  refine ⟨?_, _, rfl⟩
  unfold State.memoryCanonical
  decide +kernel

theorem witness_StepKeepsTheShape : waiting.shape ∧ ∃ t, step waiting = .next t :=
  ⟨by constructor <;> decide +kernel, _, rfl⟩

theorem witness_StepKeepsTheRanges : waiting.ranges ∧ ∃ t, step waiting = .next t := by
  have h01 : ∀ {v : NUM}, v = .rat 0 → 0 ≤ v.val ∧ v.val ≤ 1 := fun h => by simp [h]
  have hm : ∀ m : Fin 24, waiting.blk.md[m].phase = .rat 0 := by decide +kernel
  have hq : ∀ q : Fin 4, waiting.blk.bq[q].fs = .rat 48000 := by decide +kernel
  have hg : ∀ g ∈ waiting.blk.gp.grains, g.len = .rat 4 ∧ g.active = true := by decide +kernel
  refine ⟨⟨by decide +kernel, by decide +kernel, fun m => ?_, fun q => ?_, ⟨(h01 rfl).1, (h01 rfl).1⟩, .inl ?_, h01 rfl, h01 rfl,
    h01 rfl, h01 rfl, h01 rfl, fun g hgm => ⟨?_, (hg g hgm).2⟩⟩, _, rfl⟩
  · rw [hm m, NUM.val_rat]; norm_num
  · rw [hq q, NUM.val_rat]; norm_num
  · show ((0 : ℚ) : ℝ) = 0
    simp
  · rw [(hg g hgm).1, NUM.val_rat]; norm_num

theorem witness_ResetHasTheInvariants : Params.testDefault.valid = true ∧ tiny.valid = true := by decide +kernel

theorem witness_ResetValues : (at0 tiny (scalars 0 0 0 0)).args.a0.val = 0 ∧
    (∃ t, exec .gpSeed (at0 tiny (scalars 0 0 0 0)) = .next t) ∧ 1 < tiny.numGrains :=
  ⟨scalar_val tiny (by norm_num), ⟨_, rfl⟩, by decide⟩

/-- A root at 0 and elsewhere, phases half a turn apart, a number other than 0 that is no rational. -/
theorem witness_RealFunctionsAreExact : 0 ≤ (NUM.rat 0).val ∧ 0 ≤ NUM.pi.val ∧
    (NUM.rat (5 / 8)).val = (NUM.rat (1 / 8)).val + 1 / 2 ∧ NUM.pi.val ≠ 0 := by
  refine ⟨by simp, Real.pi_pos.le, ?_, Real.pi_ne_zero⟩
  simp only [NUM.val_rat]
  norm_num

/-- The phases of the clauses, and the two pools named. -/
theorem witness_OffsetAndNormalisationAreExact :
    (∀ q ∈ [(1 / 4 : ℚ), 3 / 4, 1 / 2], (delay 2 0 1 true q []).phase.val = q) ∧ 1 ≤ tiny.numGrains ∧ tiny.numGrains = 2 ∧
      1 ≤ ({ tiny with numGrains := 6 } : Params).numGrains ∧ ({ tiny with numGrains := 6 } : Params).numGrains = 6 :=
  ⟨fun _ _ => rfl, by decide, rfl, by decide, rfl⟩

end Sys2Proof.Tests
end

/-! The reset table 10_state.md R40: one rule per register file of the reset state, the grain pool it places, and the generator
that GP.SEED leaves (45_granular.md R192). -/

namespace Sys2Proof.Machine

/-! ## The registers after reset -/

section
variable (p : Params)

@[simp] theorem State.resetWith_rb (r : Fin 25) : (State.resetWith p).blk.rb[r] = ⟨0, []⟩ := by
  simp [State.resetWith, Block.reset]

@[simp] theorem State.resetWith_md (m : Fin 24) :
    (State.resetWith p).blk.md[m] = ⟨0, .rat 0, .rat 0, false, .rat 0, silence p⟩ := by
  simp [State.resetWith, Block.reset]

@[simp] theorem State.resetWith_ap (a : Fin 20) : (State.resetWith p).blk.ap[a] = ⟨.rat 0, silence p⟩ := by
  simp [State.resetWith, Block.reset]

@[simp] theorem State.resetWith_bq (q : Fin 4) : (State.resetWith p).blk.bq[q] =
    ⟨p.bqTypeInit[q], .rat 0, p.sampleRate, Coeffs.zero, .rat 0, .rat 0, .rat 0, .rat 0⟩ := by
  simp [State.resetWith, Block.reset]

@[simp] theorem State.resetWith_prev (i : Fin 4) : (State.resetWith p).blk.rv.prev[i] = silence p := by
  simp [State.resetWith, Block.reset]

@[simp] theorem State.resetWith_param (id : ParamId) : (State.resetWith p).param id = .rat 0 := by
  simp [State.param, State.resetWith, Block.reset]

@[simp] theorem State.resetWith_rng : (State.resetWith p).blk.gp.rng = ⟨0, 0⟩ := rfl

/-! ## The grain pool after reset -/

@[simp] theorem State.resetWith_grains :
    (State.resetWith p).blk.gp.grains = (List.range p.numGrains).map (Grain.reset p) := rfl

theorem State.resetWith_grain {i : Nat} (h : i < p.numGrains) :
    (State.resetWith p).blk.gp.grains[i]? = some (Grain.reset p i) := by
  simp [List.getElem?_range h]

@[simp] theorem Grain.reset_start_val (i : Nat) :
    (Grain.reset p i).start.val = -p.grainLen.val - i * p.grainLen.val / p.numGrains := by
  simp [Grain.reset]

@[simp] theorem Grain.reset_pos_val (i : Nat) : (Grain.reset p i).pos.val = -p.grainLen.val := by
  simp [Grain.reset]

end

/-! ## GP.SEED -/

theorem exec_gpSeed (s : State) : exec .gpSeed s = execGpSeed s := by intros; rfl

/-- GP.SEED with a natural number: the generator starts anew at that seed, with nothing drawn (45_granular.md R192). -/
theorem exec_gpSeed_of_natural {s : State} {k : Nat} (h : s.args.a0.val = k) :
    exec .gpSeed s = .next (s.setGp { s.blk.gp with rng := ⟨k, 0⟩ }).done := by
  have hk : naturalOperand s.args.a0 = some k := naturalOperand_eq_some.2 h
  rw [exec_gpSeed, execGpSeed, hk]

theorem exec_gpSeed_rng {s t : State} {k : Nat} (h : s.args.a0.val = k) (ht : exec .gpSeed s = .next t) :
    t.blk.gp.rng = ⟨k, 0⟩ := by
  obtain rfl : _ = t := Host.Outcome.next.inj ((exec_gpSeed_of_natural h).symm.trans ht)
  simp

end Sys2Proof.Machine

namespace Sys2Proof.Claims

open Sys2Proof.Machine

/-- Settles O55: each register by its rule above; the generator because GP.SEED 0 leaves seed 0 with nothing drawn. -/
theorem resetValues : Obligations.ResetValues := by
  unfold Obligations.ResetValues
  intro p
  have samples (r : Fin 25) : (State.resetWith p).blk.rb[r].wc = 0 ∧
      ∀ j : Nat, memRead (State.resetWith p).blk.rb[r] j = .rat 0 := by
    rw [State.resetWith_rb]; exact ⟨rfl, fun _ => rfl⟩
  have generator (s t : State) (h : s.args.a0.val = 0) (ht : exec .gpSeed s = .next t) :
      (State.resetWith p).blk.gp.rng = t.blk.gp.rng := by
    rw [State.resetWith_rng, exec_gpSeed_rng (k := 0) (by simpa using h) ht]
  have poolSize : (State.resetWith p).blk.gp.grains.length = p.numGrains := by simp
  refine ⟨samples, State.resetWith_md p, State.resetWith_ap p, State.resetWith_bq p, rfl, generator, poolSize, ?grain,
    State.resetWith_param p, rfl, rfl, rfl, rfl, rfl, rfl, State.resetWith_prev p, rfl, rfl, rfl⟩
  case grain =>
    intro i hi
    exact ⟨Grain.reset p i, State.resetWith_grain p hi, Grain.reset_start_val p i, rfl, rfl, Grain.reset_pos_val p i, rfl⟩

end Sys2Proof.Claims

/-! Reading back a written stream (40_ring_buffer.md R105): a block write leaves every slot outside `storedSlots` as it was, and
puts each of its last `N` samples where the later ones do not come. -/

namespace Sys2Proof.Machine

open Sys2Proof.Claims

/-- Different time indices less than one capacity apart have different slots. -/
theorem slotOf_ne_of_lt {n : Nat} {a b : Int} (hab : a < b) (hb : b < a + n) : slotOf n a ≠ slotOf n b := by
  rw [Ne, slotOf_eq_iff (by omega)]
  exact fun hd => absurd (Int.le_of_dvd (by omega) hd) (by omega)

/-! ## The slots of a block write -/

theorem mem_storedSlots {n wc l j : Nat} : j ∈ storedSlots n wc l ↔ ∃ i < l, slotOf n (wc + i : Nat) = j := by
  simp [storedSlots]

theorem storedSlots_succ (n wc l : Nat) : storedSlots n wc (l + 1) = slotOf n wc :: storedSlots n (wc + 1) l := by
  simp [storedSlots, List.range_succ_eq_map, Nat.add_assoc, Nat.add_comm 1]

/-- Up to `N − 1` further samples do not come to the slot just before the cursor. -/
theorem slotOf_not_mem_storedSlots {n wc l : Nat} (hl : l < n) : slotOf n wc ∉ storedSlots n (wc + 1) l := by
  rw [mem_storedSlots]
  rintro ⟨i, hi, h⟩
  exact slotOf_ne_of_lt (by omega) (by omega) h.symm

/-! ## What a block write stores -/

variable {p : Params} {r : Fin 25} {b : RingBuf}

/-- A block write leaves the slots it does not go to as they were, the very expressions. -/
theorem memRead_rbWrite_foldl_of_not_mem {x : List NUM} {j : Nat} (hn : 1 ≤ p.rbCap[r])
    (h : Memory.wf p.rbCap[r] b.data = true) (hj : j ∉ storedSlots p.rbCap[r] b.wc x.length) :
    memRead (x.foldl (rbWrite p r) b) j = memRead b j := by
  induction x generalizing b with
  | nil => rfl
  | cons v x ih =>
    rw [List.length_cons, storedSlots_succ, List.mem_cons, not_or] at hj
    obtain ⟨hne, hx⟩ := hj
    rw [List.foldl_cons, ih (rbWrite_wf v hn h) hx, memRead_rbWrite_of_ne h hne]

/-- The number a block write leaves at the time index of its sample `k`, when fewer than `N` samples come after it. -/
theorem memRead_rbWrite_foldl {x : List NUM} {k : Nat} (h : Memory.wf p.rbCap[r] b.data = true) (hk : k < x.length)
    (hx : x.length ≤ k + p.rbCap[r]) :
    (memRead (x.foldl (rbWrite p r) b) (slotOf p.rbCap[r] (b.wc + k : Nat))).val = (quantise p.quant x[k]).val := by
  induction k generalizing b x with
  | zero =>
    cases x with
    | nil => simp at hk
    | cons v x =>
      have hn : x.length < p.rbCap[r] := by simpa using hx
      have hlast : slotOf p.rbCap[r] b.wc ∉ storedSlots p.rbCap[r] (b.wc + 1) x.length :=
        slotOf_not_mem_storedSlots hn
      rw [Nat.add_zero, List.foldl_cons,
        memRead_rbWrite_foldl_of_not_mem (by omega) (rbWrite_wf v (by omega) h) hlast, memRead_rbWrite v h, if_pos rfl,
        List.getElem_cons_zero]
  | succ k ih =>
    cases x with
    | nil => simp at hk
    | cons v x =>
      rw [List.length_cons] at hk hx
      have hnext := ih (x := x) (rbWrite_wf v (by omega) h) (by omega) (by omega)
      rwa [rbWrite_wc, Nat.add_assoc, Nat.add_comm 1] at hnext

end Sys2Proof.Machine

namespace Sys2Proof.Claims

open Sys2Proof.Machine

/-- Settles O9: the position is an integer, so the read is one slot; it still holds sample `k` as `Qs` stored it. -/
theorem readReturnsTheWrittenSample : Obligations.ReadReturnsTheWrittenSample := by
  unfold Obligations.ReadReturnsTheWrittenSample
  intro p r b x k pos hk hq _ hwf hx hpos
  have hint : pos.val = ((b.wc + k : Nat) : Int) := by rw [hpos, Int.cast_natCast]
  rw [rbRead_ofInt p r _ hint, memRead_rbWrite_foldl hwf hk hx, hq, quantise, sampleAt, List.getD_eq_getElem _ _ hk]

end Sys2Proof.Claims

/-! The pure delay (41_modulated_delay.md R116): with `modAmount` 0 the position read is the integer `t − delaySamples`, and the
buffer that has taken a stream since reset holds at that time index the stream's sample, or the 0 of reset before time 0. -/

namespace Sys2Proof.Machine

open Sys2Proof.Claims

/-- The number at place `t` of the stream `x` delayed by `d` samples, 0 before time 0 (41_modulated_delay.md R116). -/
noncomputable def delayedSample (d : Nat) (x : List NUM) (t : Nat) : ℝ := if d ≤ t then sampleAt x (t - d) else 0

/-! ## Places of concatenated blocks -/

theorem sampleAt_append_left {x y : List NUM} {n : Nat} (hn : n < x.length) : sampleAt (x ++ y) n = sampleAt x n := by
  rw [sampleAt, sampleAt, List.getD_append _ _ _ _ hn]

theorem sampleAt_append_right {x y : List NUM} {n : Nat} (hn : x.length ≤ n) :
    sampleAt (x ++ y) n = sampleAt y (n - x.length) := by
  rw [sampleAt, sampleAt, List.getD_append_right _ _ _ _ hn]

/-- A delayed stream does not look ahead. -/
theorem delayedSample_append_left {d t : Nat} {x y : List NUM} (ht : t < x.length) :
    delayedSample d (x ++ y) t = delayedSample d x t := by
  unfold delayedSample
  rw [sampleAt_append_left (by omega)]

/-! ## A buffer that has taken a stream since reset -/

/-- Within one capacity behind the cursor the buffer holds the stream's samples, and the 0 of reset before time 0: no sample
of the stream has the slot of such a negative time index. -/
theorem memRead_rbWrite_foldl_reset {p : Params} {r : Fin 25} {x : List NUM} {d t : Nat} (hq : p.quant = .identity)
    (ht : t < x.length) (hd : d + x.length ≤ t + p.rbCap[r]) :
    (memRead (x.foldl (rbWrite p r) ⟨0, []⟩) (slotOf p.rbCap[r] (t - d))).val = delayedSample d x t := by
  unfold delayedSample
  split
  · have hk : t - d < x.length := by omega
    have hstored := memRead_rbWrite_foldl (p := p) (r := r) (b := ⟨0, []⟩) (Memory.wf_nil _) hk (by omega)
    rw [Nat.zero_add, Nat.cast_sub ‹d ≤ t›, hq, quantise] at hstored
    rw [hstored, sampleAt, List.getD_eq_getElem _ _ hk]
  · have hunwritten : slotOf p.rbCap[r] (t - d) ∉ storedSlots p.rbCap[r] 0 x.length := by
      rw [mem_storedSlots]
      rintro ⟨i, hi, hslot⟩
      exact slotOf_ne_of_lt (by omega) (by omega) hslot.symm
    rw [memRead_rbWrite_foldl_of_not_mem (by omega) (Memory.wf_nil _) hunwritten]
    simp [memRead, Memory.read]

/-! ## MD.PROC with `modAmount` 0 -/

/-- With `modAmount` 0 the position is `t − delaySamples` at every LFO phase; rounding leaves it as it is. -/
theorem ModDelay.val_tap_of_modAmount_zero {d : ModDelay} (h : d.modAmount.val = 0) (t : Nat) :
    (d.tap t).val = ((t - d.delaySamples : Int) : ℝ) := by
  have hoff : d.offset.val = 0 := by rw [ModDelay.offset, NUM.val_mul, h, zero_mul]
  have hround : ⌊((t - d.delaySamples : Int) : ℝ) + 1 / 2⌋ = (t - d.delaySamples : Int) := by
    rw [Int.floor_intCast_add]; norm_num
  unfold ModDelay.tap
  split
  · rw [NUM.val_add, NUM.val_ofInt, hoff, add_zero]
  · rw [NUM.val_ofInt, roundHalfUp_eq, NUM.val_add, NUM.val_ofInt, hoff, add_zero, hround]

/-- The samples MD.PROC returns for the block `x`: the reads at the positions of the block. -/
theorem State.mdProc_out_take (s : State) (m : Fin 24) (x : List NUM) :
    (s.mdProc m x).blk.md[m].out.take x.length = (mdTaps s.blk.md[m] s.blk.rb[rbOfMd m].wc x.length).map
      (rbRead s.cfg (rbOfMd m) (x.foldl (rbWrite s.cfg (rbOfMd m)) s.blk.rb[rbOfMd m])) := by
  simp [State.mdProc_md, overwrite]

theorem State.mdProc_out_take_length (s : State) (m : Fin 24) (x : List NUM) :
    ((s.mdProc m x).blk.md[m].out.take x.length).length = x.length := by
  rw [State.mdProc_out_take, List.length_map, mdTaps_length]

/-- `MD[m]` delays by `d` samples without modulation, and its buffer has taken the stream `h` since reset. -/
structure DelaysStream (s : State) (m : Fin 24) (d : Nat) (h : List NUM) : Prop where
  quant : s.cfg.quant = .identity
  buf : s.blk.rb[rbOfMd m] = h.foldl (rbWrite s.cfg (rbOfMd m)) ⟨0, []⟩
  delay : s.blk.md[m].delaySamples = d
  depth : s.blk.md[m].modAmount.val = 0

theorem resetWith_delaysStream {p : Params} (m : Fin 24) (d : Nat) (rate : NUM) {depth : NUM} (interp : Bool)
    (hq : p.quant = .identity) (hdepth : depth.val = 0) :
    let s := State.resetWith p
    DelaysStream (s.setMd m (s.blk.md[m].setParams d rate depth interp)) m d [] where
  quant := hq
  buf := State.resetWith_rb p (rbOfMd m)
  delay := by simp [ModDelay.setParams]
  depth := by simpa [ModDelay.setParams] using hdepth

section
variable {s : State} {m : Fin 24} {d : Nat} {h x : List NUM}

/-- MD.PROC appends its block to the stream taken and keeps the parameters. -/
theorem DelaysStream.mdProc (hs : DelaysStream s m d h) (x : List NUM) : DelaysStream (s.mdProc m x) m d (h ++ x) where
  quant := hs.quant
  buf := by simp [hs.buf]
  delay := by simpa [State.mdProc_md] using hs.delay
  depth := by simpa [State.mdProc_md] using hs.depth

/-- One block of R116: the delayed stream, for a block that with the delay fits the buffer (R115 at depth 0). -/
theorem DelaysStream.sampleAt_out (hs : DelaysStream s m d h) (hx : d + x.length ≤ s.cfg.rbCap[rbOfMd m]) {n : Nat}
    (hn : n < x.length) :
    sampleAt ((s.mdProc m x).blk.md[m].out.take x.length) n = delayedSample d (h ++ x) (h.length + n) := by
  have hpos := ModDelay.val_tap_of_modAmount_zero (d := s.blk.md[m].advance x.length) hs.depth (h.length + n)
  rw [ModDelay.advance_delaySamples, hs.delay] at hpos
  have hwc : s.blk.rb[rbOfMd m].wc = h.length := by simp [hs.buf]
  have hbuf : x.foldl (rbWrite s.cfg (rbOfMd m)) s.blk.rb[rbOfMd m] =
      (h ++ x).foldl (rbWrite s.cfg (rbOfMd m)) ⟨0, []⟩ := by rw [hs.buf, List.foldl_append]
  rw [State.mdProc_out_take, hwc, hbuf, sampleAt, List.getD_eq_getElem _ _ (by simpa using hn)]
  simp only [mdTaps, List.getElem_map, List.getElem_range]
  rw [rbRead_ofInt _ _ _ hpos, memRead_rbWrite_foldl_reset hs.quant (by simpa using hn)
    (by rw [List.length_append]; omega)]

end

/-! ## The whole stream -/

/-- MD.PROC returns as many samples as it takes. -/
theorem mdStream_length (m : Fin 24) (s : State) (blocks : List (List NUM)) :
    (mdStream m s blocks).length = blocks.flatten.length := by
  induction blocks generalizing s with
  | nil => rfl
  | cons x rest ih =>
    rw [mdStream, List.length_append, State.mdProc_out_take_length, ih, List.flatten_cons, List.length_append]

/-- R116 from any point of a stream on: place `n` of the remaining output is place `h.length + n` of the delayed stream. -/
theorem DelaysStream.sampleAt_mdStream {s : State} {m : Fin 24} {d : Nat} {h : List NUM} {blocks : List (List NUM)}
    (hs : DelaysStream s m d h) (hx : ∀ x ∈ blocks, d + x.length ≤ s.cfg.rbCap[rbOfMd m]) {n : Nat}
    (hn : n < blocks.flatten.length) :
    sampleAt (mdStream m s blocks) n = delayedSample d (h ++ blocks.flatten) (h.length + n) := by
  induction blocks generalizing s h n with
  | nil => simp at hn
  | cons x rest ih =>
    obtain ⟨hfit, hrest⟩ := List.forall_mem_cons.1 hx
    rw [List.flatten_cons, List.length_append] at hn
    have hlen := s.mdProc_out_take_length m x
    rw [mdStream, List.flatten_cons, ← List.append_assoc]
    by_cases hfirst : n < x.length
    · rw [sampleAt_append_left (by omega), hs.sampleAt_out hfit hfirst,
        delayedSample_append_left (x := h ++ x) (by rw [List.length_append]; omega)]
    · rw [sampleAt_append_right (by omega), hlen, ih (hs.mdProc x) hrest (by omega), List.length_append]
      congr 1
      omega

end Sys2Proof.Machine

namespace Sys2Proof.Claims

open Sys2Proof.Machine

/-- Settles O14: `DelaysStream` holds at reset of the empty stream, so the outputs are the delayed input stream. -/
theorem pureDelayStream : Obligations.PureDelayStream := by
  unfold Obligations.PureDelayStream
  intro p m d rate depth interp blocks n hq _ hdepth hblocks hn
  have hreset := resetWith_delaysStream m d rate interp hq hdepth
  refine ⟨by rwa [mdStream_length], ?_⟩
  rw [hreset.sampleAt_mdStream (fun x hx => (hblocks x hx).2) hn, List.nil_append, List.length_nil, Nat.zero_add,
    delayedSample]

end Sys2Proof.Claims

/-! Streams through a biquad filter (43_biquad.md R140, R141). The sample loop over a concatenation is the loop over the second
block from the filter the first one leaves. It reads the coefficients and the history only, so its output does not see a write
of type, frequency or rate. -/

namespace Sys2Proof.Machine

open Sys2Proof.Claims

/-! ## Several blocks -/

theorem bqLoop_append (f : Biquad) (x y : List NUM) :
    bqLoop f (x ++ y) = ((bqLoop (bqLoop f x).1 y).1, (bqLoop f x).2 ++ (bqLoop (bqLoop f x).1 y).2) := by
  induction x generalizing f with
  | nil => rfl
  | cons v x ih => rw [List.cons_append, bqLoop, ih (f.shift v (f.output v))]; rfl

/-- BQ.PROC leaves in its filter what the sample loop leaves. -/
theorem State.bqProc_bq_same (s : State) (q : Fin 4) (x : List NUM) :
    (s.bqProc q x).1.blk.bq[q] = (bqLoop s.blk.bq[q] x).1 := by simp

/-- A stream in successive blocks is one run of the sample loop over their concatenation. -/
theorem bqStream_eq_bqLoop (q : Fin 4) (s : State) (blocks : List (List NUM)) :
    bqStream q s blocks = (bqLoop s.blk.bq[q] blocks.flatten).2 := by
  induction blocks generalizing s with
  | nil => rfl
  | cons x rest ih => rw [bqStream, ih, State.bqProc_bq_same, State.bqProc_out, List.flatten_cons, bqLoop_append]

/-! ## A write of type, frequency or rate -/

/-- The filter with another type, frequency and rate, its coefficients and history as they were. -/
def Biquad.retune (f : Biquad) (ty : FilterType) (freq fs : NUM) : Biquad :=
  { f with type := ty, freq := freq, fs := fs }

/-- The sample loop hands type, frequency and rate on and does not read them. -/
theorem bqLoop_retune (f : Biquad) (ty : FilterType) (freq fs : NUM) (x : List NUM) :
    bqLoop (f.retune ty freq fs) x = ((bqLoop f x).1.retune ty freq fs, (bqLoop f x).2) := by
  induction x generalizing f with
  | nil => rfl
  | cons v x ih =>
    have hout : (f.retune ty freq fs).output v = f.output v := rfl
    have hshift : (f.retune ty freq fs).shift v (f.output v) = (f.shift v (f.output v)).retune ty freq fs := rfl
    rw [bqLoop, hout, hshift, ih]; rfl

/-- Every filter of `t` is that filter of `s` but for type, frequency and rate. -/
def FiltersRetuned (s t : State) : Prop :=
  ∀ q : Fin 4, ∃ ty freq fs, t.blk.bq[q] = s.blk.bq[q].retune ty freq fs

section
variable {s t : State}

theorem FiltersRetuned.of_eq (h : t.blk.bq = s.blk.bq) : FiltersRetuned s t :=
  fun q => ⟨s.blk.bq[q].type, s.blk.bq[q].freq, s.blk.bq[q].fs, by rw [h]; rfl⟩

theorem FiltersRetuned.of_set (k : Fin 4) (ty : FilterType) (freq fs : NUM)
    (h : t.blk.bq = s.blk.bq.set k (s.blk.bq[k].retune ty freq fs)) : FiltersRetuned s t := by
  intro q
  by_cases hq : k = q
  · subst hq
    exact ⟨ty, freq, fs, by simp [h]⟩
  · have hkq : k.val ≠ q.val := fun e => hq (Fin.ext e)
    exact ⟨s.blk.bq[q].type, s.blk.bq[q].freq, s.blk.bq[q].fs, by simp [h, hkq, Biquad.retune]⟩

/-- BQ.PROC gives the output it gives before the write. -/
theorem FiltersRetuned.bqProc_out (h : FiltersRetuned s t) (q : Fin 4) (x : List NUM) :
    (t.bqProc q x).2 = (s.bqProc q x).2 := by
  obtain ⟨ty, freq, fs, hq⟩ := h q
  rw [State.bqProc_out, State.bqProc_out, hq, bqLoop_retune]

/-! ## BQ.SETTYPE, BQ.SETFREQ and BQ.SETFS -/

/-- The rate of BQ.SETFS is well-typed when it is positive (43_biquad.md R133). -/
theorem rateOperand_of_pos {i : Instr} (h : 0 < s.args.a0.val) : rateOperand i s = .ok s.args.a0 :=
  if_pos (by simpa [NUM.lt_iff] using h)

theorem rateOperand_of_nonpos {i : Instr} (h : s.args.a0.val ≤ 0) :
    rateOperand i s = .error (.operand i .a0 s.args.a0) :=
  if_neg (by simpa [NUM.lt_iff] using h)

theorem exec_bqSettype (s : State) (k : Fin 4) (ty : FilterType) : exec (.bqSettype k ty) s =
    .next ((s.engineOwned (.bqSettype k ty)).setBq k { s.blk.bq[k] with type := ty }).done := by
  show execBqSettype k ty s = _
  exact onInstance_fin s numBq (.bqSettype k ty) k _

theorem exec_bqSetfreq (s : State) (k : Fin 4) : exec (.bqSetfreq k) s =
    .next ((s.engineOwned (.bqSetfreq k)).setBq k { s.blk.bq[k] with freq := s.args.a0 }).done := by
  show execBqSetfreq k s = _
  exact onInstance_fin s numBq (.bqSetfreq k) k _

theorem exec_bqSetfs (s : State) (k : Fin 4) : exec (.bqSetfs k) s =
    .next (withOperand s (rateOperand (.bqSetfs k) s) fun v =>
      ((s.engineOwned (.bqSetfs k)).setBq k { s.blk.bq[k] with fs := v }).done) := by
  show execBqSetfs k s = _
  exact onInstance_fin s numBq (.bqSetfs k) k _

theorem exec_bqSetfs_of_pos {k : Fin 4} (h : 0 < s.args.a0.val) : exec (.bqSetfs k) s =
    .next ((s.engineOwned (.bqSetfs k)).setBq k { s.blk.bq[k] with fs := s.args.a0 }).done := by
  rw [exec_bqSetfs, rateOperand_of_pos h, withOperand]

theorem exec_bqSetfs_of_nonpos {k : Fin 4} (h : s.args.a0.val ≤ 0) : exec (.bqSetfs k) s =
    .next (s.refuse (.operand (.bqSetfs k) .a0 s.args.a0)) := by
  rw [exec_bqSetfs, rateOperand_of_nonpos h, withOperand]

theorem exec_bqSettype_filtersRetuned {k : Fin 4} {ty : FilterType} (h : exec (.bqSettype k ty) s = .next t) :
    FiltersRetuned s t := by
  obtain rfl := Host.Outcome.next.inj ((exec_bqSettype s k ty).symm.trans h)
  exact .of_set k ty s.blk.bq[k].freq s.blk.bq[k].fs (by simp [Biquad.retune])

theorem exec_bqSetfreq_filtersRetuned {k : Fin 4} (h : exec (.bqSetfreq k) s = .next t) : FiltersRetuned s t := by
  obtain rfl := Host.Outcome.next.inj ((exec_bqSetfreq s k).symm.trans h)
  exact .of_set k s.blk.bq[k].type s.args.a0 s.blk.bq[k].fs (by simp [Biquad.retune])

/-- BQ.SETFS with a positive rate retunes its filter; any other rate is refused and leaves the filters as they are. -/
theorem exec_bqSetfs_filtersRetuned {k : Fin 4} (h : exec (.bqSetfs k) s = .next t) : FiltersRetuned s t := by
  obtain hrate | hrate := lt_or_ge 0 s.args.a0.val
  · obtain rfl := Host.Outcome.next.inj ((exec_bqSetfs_of_pos hrate).symm.trans h)
    exact .of_set k s.blk.bq[k].type s.blk.bq[k].freq s.args.a0 (by simp [Biquad.retune])
  · obtain rfl := Host.Outcome.next.inj ((exec_bqSetfs_of_nonpos hrate).symm.trans h)
    exact .of_eq rfl

/-! ## RV.UPDATEALL -/

theorem exec_rvUpdateall (s : State) : exec .rvUpdateall s = .next s.updateAll.done := rfl

/-- UpdateAll designs every filter from the very fields it leaves in it (44_reverb_engine.md R168). -/
theorem State.updateAll_coeffs (s : State) (q : Fin 4) : s.updateAll.blk.bq[q].coeffs =
    designCoeffs s.cfg.design s.updateAll.blk.bq[q].type s.updateAll.blk.bq[q].freq s.updateAll.blk.bq[q].fs := by
  simp

end

end Sys2Proof.Machine

namespace Sys2Proof.Claims

open Sys2Proof.Machine

/-- Settles O26: both sides are one run of the sample loop over the concatenation. -/
theorem filterBlocksAreInvisible : Obligations.FilterBlocksAreInvisible := by
  unfold Obligations.FilterBlocksAreInvisible
  intro s q blocks
  rw [bqStream_eq_bqLoop, State.bqProc_out]

/-- Settles O27: the setters only retune the filters, which the sample loop does not see; UpdateAll designs each anew. -/
theorem coefficientsAreStaleUntilUpdate : Obligations.CoefficientsAreStaleUntilUpdate := by
  unfold Obligations.CoefficientsAreStaleUntilUpdate
  refine ⟨fun s t q k ty x h => ?stale, fun s t q h => ?updated⟩
  case stale =>
    have hretuned : FiltersRetuned s t := by
      obtain h | h | h := h
      · exact exec_bqSettype_filtersRetuned h
      · exact exec_bqSetfreq_filtersRetuned h
      · exact exec_bqSetfs_filtersRetuned h
    exact hretuned.bqProc_out q x
  case updated =>
    obtain rfl := Host.Outcome.next.inj ((exec_rvUpdateall s).symm.trans h)
    exact s.updateAll_coeffs q

end Sys2Proof.Claims

/-! RV.SETPARAM of a parameter whose every value is in its domain (44_reverb_engine.md R154): the value is stored as given, and
everything derived is computed from it. Here for Mix and Diffuse (R158, R162). -/

namespace Sys2Proof.Machine

section
variable (s : State)

/-! ## The parameter registers -/

@[simp] theorem State.done_param (id : ParamId) : s.done.param id = s.param id := rfl

/-- UpdateAll reads the parameter registers and writes none (44_reverb_engine.md R168). -/
@[simp] theorem State.updateAll_param (id : ParamId) : s.updateAll.param id = s.param id := by
  simp [State.param, updatedEngine]

@[simp] theorem State.setParam_param (id : ParamId) (v : NUM) : (s.setParam id v).param id = v := by
  simp [State.param]

/-! ## RV.SETPARAM -/

theorem State.rvSetparam_of_inDomain {i : Instr} {id : ParamId} (h : inDomain id s.args.a0 = true) :
    s.rvSetparam i id = (s.setParam id s.args.a0).updateAll.done := if_pos h

theorem exec_rvSetMix : exec .rvSetMix s = .next (s.setParam .mix s.args.a0).updateAll.done :=
  congrArg Host.Outcome.next (s.rvSetparam_of_inDomain (i := .rvSetMix) (id := .mix) rfl)

theorem exec_rvSetDiffuse : exec .rvSetDiffuse s = .next (s.setParam .diffuse s.args.a0).updateAll.done :=
  congrArg Host.Outcome.next (s.rvSetparam_of_inDomain (i := .rvSetDiffuse) (id := .diffuse) rfl)

/-! ## What UpdateAll derives from Mix and Diffuse -/

theorem State.updateAll_wet : s.updateAll.blk.rv.wet = wetGain (s.param .mix) := by simp [updatedEngine]

theorem State.updateAll_dry : s.updateAll.blk.rv.dry = dryGain (s.param .mix) := by simp [updatedEngine]

theorem State.updateAll_tankFb : s.updateAll.blk.rv.tankFb = tankFeedback (s.param .diffuse) := by simp [updatedEngine]

theorem val_wetGain (v : NUM) :
    (wetGain v).val = if v.val ≤ 0 then 0 else if v.val ≤ 1 / 2 then 2 * v.val else 1 := by
  simp only [wetGain, val_clip, NUM.val_mul, NUM.val_rat]
  push_cast
  split_ifs <;> linarith

theorem val_dryGain (v : NUM) :
    (dryGain v).val = if v.val ≤ 1 / 2 then 1 else if v.val ≤ 1 then 2 - 2 * v.val else 0 := by
  simp only [dryGain, val_clip, NUM.val_sub, NUM.val_mul, NUM.val_rat]
  push_cast
  split_ifs <;> linarith

theorem val_tankFeedback (v : NUM) : (tankFeedback v).val = 1 / 2 + (1 - v.val) * (49 / 100) := by
  simp [tankFeedback]

/-- Every tank diffuser gets the feedback derived from Diffuse (44_reverb_engine.md R158, 10_state.md R21). -/
theorem State.updateAll_tank_fb (j : Fin 8) :
    s.updateAll.blk.ap[12 + j.val].fb = tankFeedback (s.param .diffuse) := by
  have hj : 12 + j.val < 20 := by omega
  simp [s.updateAll_ap ⟨12 + j.val, hj⟩, stageFeedback]

theorem fbViol_of_one_le {a : Fin 20} {g : NUM} (h : 1 ≤ g.val) : fbViol a g = [.apFb a g] := by
  have hlt : g.lt (.rat 1) = false := by simpa [← Bool.not_eq_true] using h
  simp [fbViol, hlt]

/-- A feedback that is not below 1 is recorded for every tank diffuser (44_reverb_engine.md R168). -/
theorem State.updateAll_records_tank (h : 1 ≤ (tankFeedback (s.param .diffuse)).val) (j : Fin 8) :
    Viol.apFb (12 + j.val) (tankFeedback (s.param .diffuse)) ∈ s.updateAll.viol := by
  have hj : 12 + j.val < 20 := by omega
  have hmem : Viol.apFb (12 + j.val) (tankFeedback (s.param .diffuse)) ∈
      fbViol ⟨12 + j.val, hj⟩ (stageFeedback s.cfg (tankFeedback (s.param .diffuse)) ⟨12 + j.val, hj⟩) := by
    simp [stageFeedback, fbViol_of_one_le h]
  rw [State.updateAll_viol]
  exact List.mem_append_right _ (List.mem_flatMap.mpr ⟨_, List.mem_finRange _, hmem⟩)

end

end Sys2Proof.Machine

namespace Sys2Proof.Claims

open Sys2Proof.Machine

/-- Settles O34: Mix is stored, and UpdateAll clips both gains from it. -/
theorem mixGivesWetAndDry : Obligations.MixGivesWetAndDry := by
  unfold Obligations.MixGivesWetAndDry
  intro s
  refine ⟨_, exec_rvSetMix s, by simp, ?wet, ?dry⟩
  case wet => rw [State.done_blk, State.updateAll_wet, State.setParam_param, val_wetGain]
  case dry => rw [State.done_blk, State.updateAll_dry, State.setParam_param, val_dryGain]

/-- Settles O35: every clause is read off the affine law of the feedback; at 1 and above UpdateAll records each diffuser. -/
theorem diffuseGivesTheTankFeedback : Obligations.DiffuseGivesTheTankFeedback := by
  unfold Obligations.DiffuseGivesTheTankFeedback
  intro s
  have hlaw := val_tankFeedback s.args.a0
  have hrecords := (s.setParam .diffuse s.args.a0).updateAll_records_tank
  rw [State.setParam_param] at hrecords
  refine ⟨_, exec_rvSetDiffuse s, ?_⟩
  simp only [State.done_blk, State.done_viol, State.updateAll_tankFb, State.updateAll_tank_fb, State.setParam_param,
    implies_true, true_and]
  refine ⟨hlaw, ?range, ?zero, ?one, ?half, ?recorded, ?negative⟩
  case range => exact fun _ _ => ⟨by linarith, by linarith⟩
  case zero => exact fun _ => by linarith
  case one => exact fun _ => by linarith
  case half => exact fun _ => by linarith
  case recorded =>
    intro _
    have hone : 1 ≤ (tankFeedback s.args.a0).val := by linarith
    exact ⟨hone, hrecords hone⟩
  case negative => exact fun _ => by linarith

end Sys2Proof.Claims

/-! RV.PROC beside the pitch shifter (44_reverb_engine.md R181). Another content of `RB[24]` and of the pitch shifter passes
through every step of the engine: the ring buffers it runs on are those of the delays, and none of them is `RB[24]`. -/

namespace Sys2Proof.Machine

section
variable (s : State) (b : RingBuf) (g : Shifter)

/-! ## Another content of `RB[24]` and of the pitch shifter -/

/-- The state with `b` in `RB[24]` and `g` in the pitch shifter. -/
def State.withShifter : State := (s.setRb 24 b).setGp g

theorem State.withShifter_ap : (s.withShifter b g).blk.ap = s.blk.ap := rfl

theorem State.withShifter_rv : (s.withShifter b g).blk.rv = s.blk.rv := rfl

theorem State.withShifter_param (id : ParamId) : (s.withShifter b g).param id = s.param id := rfl

theorem stereoOperand_withShifter (i : Instr) : stereoOperand i (s.withShifter b g) = stereoOperand i s := rfl

/-- No delay owns `RB[24]` (10_state.md R21). -/
theorem rbOfMd_ne (m : Fin 24) : ((24 : Fin 25) : Nat) ≠ rbOfMd m := Nat.ne_of_gt m.isLt

theorem State.withShifter_rb (m : Fin 24) : (s.withShifter b g).blk.rb[rbOfMd m] = s.blk.rb[rbOfMd m] :=
  Vector.getElem_set_ne (Fin.isLt 24) (rbOfMd m).isLt (rbOfMd_ne m)

theorem State.withShifter_setRb (m : Fin 24) (c : RingBuf) :
    (s.withShifter b g).setRb (rbOfMd m) c = (s.setRb (rbOfMd m) c).withShifter b g :=
  congrArg (fun v => ({ s with blk := { s.blk with rb := v, gp := g } } : State))
    (Vector.set_comm b c (hi := Fin.isLt 24) (rbOfMd_ne m))

/-! ## The unit operations -/

theorem State.mdProc_withShifter (m : Fin 24) (x : List NUM) :
    (s.withShifter b g).mdProc m x = (s.mdProc m x).withShifter b g := by
  rw [State.mdProc, State.withShifter_rb, State.withShifter_setRb]
  rfl

theorem State.apProc_withShifter (a : Fin 20) (x : List NUM) :
    (s.withShifter b g).apProc a x = (s.apProc a x).withShifter b g := by
  rw [State.apProc, State.withShifter_rb, State.withShifter_setRb]
  rfl

/-! ## The steps of RV.PROC -/

theorem State.smoothFreeze_withShifter : (s.withShifter b g).smoothFreeze = s.smoothFreeze.withShifter b g := rfl

theorem State.preFilter_withShifter (l r : List NUM) :
    (s.withShifter b g).preFilter l r = (s.preFilter l r).withShifter b g := rfl

theorem State.tapTank_withShifter (k : Fin 12) : (s.withShifter b g).tapTank k = (s.tapTank k).withShifter b g := rfl

theorem State.snapshot_withShifter : (s.withShifter b g).snapshot = s.snapshot.withShifter b g := rfl

theorem State.chain_withShifter (as : List (Fin 20)) (x : List NUM) :
    (s.withShifter b g).chain as x = (s.chain as x).withShifter b g := by
  induction as generalizing s x with
  | nil => rfl
  | cons a rest ih => rw [State.chain, State.apProc_withShifter, ih]; rfl

theorem State.postFilter_withShifter (x : List NUM) :
    (s.withShifter b g).postFilter x = ((s.postFilter x).1.withShifter b g, (s.postFilter x).2) := rfl

theorem laneInput_withShifter (i : Fin 4) : laneInput (s.withShifter b g) i = laneInput s i := rfl

theorem State.lane_withShifter (i : Fin 4) : (s.withShifter b g).lane i = (s.lane i).withShifter b g := by
  unfold State.lane
  dsimp only
  rw [laneInput_withShifter]
  by_cases hi : i = 0
  · rw [if_pos hi, if_pos hi, State.postFilter_withShifter]
    dsimp only
    rw [State.chain_withShifter, State.withShifter_ap, State.mdProc_withShifter]
  · rw [if_neg hi, if_neg hi]
    dsimp only
    rw [State.chain_withShifter, State.withShifter_ap, State.mdProc_withShifter]

theorem State.rvBlock_withShifter (k : Fin 12) (l r : List NUM) :
    (s.withShifter b g).rvBlock k l r = (s.rvBlock k l r).withShifter b g := by
  unfold State.rvBlock
  dsimp only
  rw [State.smoothFreeze_withShifter, State.preFilter_withShifter, State.withShifter_rv, State.chain_withShifter,
    State.tapTank_withShifter, State.snapshot_withShifter, State.lane_withShifter, State.lane_withShifter,
    State.lane_withShifter, State.lane_withShifter]

/-! ## The end of RV.PROC -/

/-- The end of an RV.PROC that ran: both channels are mixed (44_reverb_engine.md R178) and sent. -/
def State.rvFinish (t : State) (x : List NUM × List NUM) : State :=
  ({ t with rvRan := true }).answer none (outputMix t.blk.rv t.blk.md[0].out t.blk.md[2].out x.1)
    (outputMix t.blk.rv t.blk.md[1].out t.blk.md[3].out x.2)

theorem State.rvFinish_withShifter (x : List NUM × List NUM) :
    (s.withShifter b g).rvFinish x = (s.rvFinish x).withShifter b g := rfl

theorem State.refuse_withShifter (v : Viol) : (s.withShifter b g).refuse v = (s.refuse v).withShifter b g := rfl

end

section
variable {s : State} {x : List NUM × List NUM}

/-! ## RV.PROC, refused or run -/

theorem exec_rvProc_of_illTyped {v : Viol} (hx : stereoOperand .rvProc s = .error v) :
    exec .rvProc s = .next (s.refuse v) := by
  show execRvProc s = _
  rw [execRvProc, hx, withOperand]

theorem exec_rvProc_of_noStage (hx : stereoOperand .rvProc s = .ok x)
    (hk : stageOperand (s.param .earlyStages) = none) :
    exec .rvProc s = .next (s.refuse (.rvParam (s.param .earlyStages))) := by
  show execRvProc s = _
  rw [execRvProc, hx, withOperand, hk]

theorem exec_rvProc_of_stage {k : Fin 12} (hx : stereoOperand .rvProc s = .ok x)
    (hk : stageOperand (s.param .earlyStages) = some k) :
    exec .rvProc s = .next ((s.rvBlock k x.1 x.2).rvFinish x) := by
  show execRvProc s = _
  rw [execRvProc, hx, withOperand, hk]
  rfl

/-- RV.PROC on the state with another content of `RB[24]` and of the pitch shifter, refused or not. -/
theorem exec_rvProc_withShifter {t : State} (b : RingBuf) (g : Shifter) (h : exec .rvProc s = .next t) :
    exec .rvProc (s.withShifter b g) = .next (t.withShifter b g) := by
  cases hx : stereoOperand .rvProc s with
  | error v =>
    obtain rfl := Host.Outcome.next.inj ((exec_rvProc_of_illTyped hx).symm.trans h)
    rw [exec_rvProc_of_illTyped ((stereoOperand_withShifter s b g .rvProc).trans hx), State.refuse_withShifter]
  | ok x =>
    have hx' := (stereoOperand_withShifter s b g .rvProc).trans hx
    cases hk : stageOperand (s.param .earlyStages) with
    | none =>
      obtain rfl := Host.Outcome.next.inj ((exec_rvProc_of_noStage hx hk).symm.trans h)
      rw [exec_rvProc_of_noStage hx' hk, State.refuse_withShifter, State.withShifter_param]
    | some k =>
      obtain rfl := Host.Outcome.next.inj ((exec_rvProc_of_stage hx hk).symm.trans h)
      rw [exec_rvProc_of_stage hx' hk, State.rvBlock_withShifter, State.rvFinish_withShifter]

end

end Sys2Proof.Machine

namespace Sys2Proof.Claims

open Sys2Proof.Machine

/-- Settles O43: the other content passes through every step of RV.PROC unread. -/
theorem engineIgnoresThePitchShifter : Obligations.EngineIgnoresThePitchShifter := by
  unfold Obligations.EngineIgnoresThePitchShifter
  exact fun s t b g h => exec_rvProc_withShifter b g h

end Sys2Proof.Claims

/-! The grain envelope (45_granular.md R195): the cubic `3·t² − 2·t³` of a triangle, symmetric about 1/2. -/

namespace Sys2Proof.Claims

theorem envelope_eq_cubic (u : ℝ) : envelope u = 3 * (1 - |2 * u - 1|) ^ 2 - 2 * (1 - |2 * u - 1|) ^ 3 := by
  unfold envelope; ring

theorem envelope_one_sub (u : ℝ) : envelope (1 - u) = envelope u := by
  have htri : |2 * (1 - u) - 1| = |2 * u - 1| := by rw [← abs_neg]; congr 1; ring
  rw [envelope_eq_cubic, envelope_eq_cubic, htri]

/-- On the rising half the triangle is `2·u`. -/
theorem envelope_of_le_half {u : ℝ} (h : u ≤ 1 / 2) : envelope u = 3 * (2 * u) ^ 2 - 2 * (2 * u) ^ 3 := by
  have htri : 1 - |2 * u - 1| = 2 * u := by rw [abs_of_nonpos (by linarith)]; ring
  rw [envelope_eq_cubic, htri]

/-- The cubic maps [0,1] into [0,1]: it is `t²·(3 − 2·t)`, and its distance from 1 is `(1 − t)²·(1 + 2·t)`. -/
theorem cubic_mem_unit {t : ℝ} (h0 : 0 ≤ t) (h1 : t ≤ 1) : 0 ≤ 3 * t ^ 2 - 2 * t ^ 3 ∧ 3 * t ^ 2 - 2 * t ^ 3 ≤ 1 := by
  have hlow : 0 ≤ t ^ 2 * (3 - 2 * t) := mul_nonneg (sq_nonneg t) (by linarith)
  have hhigh : 0 ≤ (1 - t) ^ 2 * (1 + 2 * t) := mul_nonneg (sq_nonneg _) (by linarith)
  constructor <;> linarith

theorem envelope_mem_unit {u : ℝ} (h0 : 0 ≤ u) (h1 : u ≤ 1) : 0 ≤ envelope u ∧ envelope u ≤ 1 := by
  have habs : |2 * u - 1| ≤ 1 := abs_le.2 ⟨by linarith, by linarith⟩
  rw [envelope_eq_cubic]
  exact cubic_mem_unit (sub_nonneg.2 habs) (sub_le_self _ (abs_nonneg _))

/-- Half a grain later the envelope is, mirrored, at `1/2 − u` on its rising half, where the cubic of `1 − 2·u` complements that
of `2·u`. -/
theorem envelope_add_envelope_half {u : ℝ} (h0 : 0 ≤ u) (h1 : u ≤ 1 / 2) : envelope u + envelope (u + 1 / 2) = 1 := by
  have hmirror : envelope (u + 1 / 2) = envelope (1 / 2 - u) := by rw [← envelope_one_sub]; congr 1; ring
  rw [hmirror, envelope_of_le_half h1, envelope_of_le_half (by linarith)]
  ring

end Sys2Proof.Claims

namespace Sys2Proof.Machine

open Sys2Proof.Claims

@[simp] theorem val_window (u : NUM) : (window u).val = envelope u.val := by
  simp only [window, envelope, NUM.val_add, NUM.val_mul, NUM.val_sub, NUM.val_abs, NUM.val_rat, Rat.cast_one, Rat.cast_ofNat]
  ring

end Sys2Proof.Machine

namespace Sys2Proof.Claims

open Sys2Proof.Machine

/-- The table of R195, the envelope at the multiples of 1/8. -/
theorem envelope_eighths : ([0, 1 / 8, 1 / 4, 3 / 8, 1 / 2, 5 / 8, 3 / 4, 7 / 8, 1] : List ℝ).map envelope =
    [0, 5 / 32, 1 / 2, 27 / 32, 1, 27 / 32, 1 / 2, 5 / 32, 0] := by
  norm_num [envelope_eq_cubic]

/-- Settles O47: the model's window is the envelope at the number's value, and the envelope has the four properties. -/
theorem windowLaw : Obligations.WindowLaw := by
  unfold Obligations.WindowLaw
  refine ⟨fun u => ⟨val_window u, envelope_eq_cubic u.val⟩, ?bounds, ?halves, ?values⟩
  case bounds =>
    intro u h0 h1
    rw [val_window]
    exact envelope_mem_unit h0 h1
  case halves =>
    intro u v h0 h1 hv
    rw [val_window, val_window, hv]
    exact envelope_add_envelope_half h0 h1
  case values =>
    rw [← envelope_eighths]
    simp [numbers]

end Sys2Proof.Claims

/-! A reseed (45_granular.md R196): where it places the grain, in terms of its two draws, each a number in [0,1). -/

namespace Sys2Proof.Machine

section
variable (p : Params) (speed : NUM) (k0 npr : Nat) (r : Rng)

/-- The draw of the jitter, the first of a reseed. -/
def jitterDraw : NUM × Rng := rand p.rng r

/-- The draw of the length, made from the generator the jitter leaves. -/
def lengthDraw : NUM × Rng := rand p.rng (jitterDraw p r).2

theorem reseed_rng : (reseed p speed k0 npr r).2 = (lengthDraw p r).2 := rfl

theorem reseed_start_val : (reseed p speed k0 npr r).1.start.val =
    k0 + npr - p.grainLen.val + 300 * (jitterDraw p r).1.val := by
  simp [reseed, jitterDraw, jitterMax]

theorem reseed_len_val : (reseed p speed k0 npr r).1.len.val = p.grainLen.val * (1 + (lengthDraw p r).1.val) := by
  simp [reseed, lengthDraw, jitterDraw]

end

/-- A draw is a number in [0,1) (45_granular.md R193). -/
theorem rand_mem (sel : RngSel) (r : Rng) : 0 ≤ (rand sel r).1.val ∧ (rand sel r).1.val < 1 := rngValue_mem sel r

end Sys2Proof.Machine

namespace Sys2Proof.Claims

open Sys2Proof.Machine

/-- Settles O48: the fields are those of the rules above, and the bounds of the length are those of the second draw. -/
theorem reseedPlacesTheGrain : Obligations.ReseedPlacesTheGrain := by
  unfold Obligations.ReseedPlacesTheGrain
  intro p speed k0 npr r hG g first second u1 u2 len
  obtain ⟨hu1, hu1'⟩ : 0 ≤ u1 ∧ u1 < 1 := rand_mem p.rng r
  obtain ⟨hu2, hu2'⟩ : 0 ≤ u2 ∧ u2 < 1 := rand_mem p.rng first.2
  have hlen : g.len.val = len * (1 + u2) := reseed_len_val p speed k0 npr r
  have hleast : len ≤ g.len.val := by rw [hlen]; exact le_mul_of_one_le_right hG.le (by linarith)
  have hmost : g.len.val < 2 * len := by
    rw [hlen, mul_comm 2]
    exact mul_lt_mul_of_pos_left (by linarith) hG
  exact ⟨reseed_rng p speed k0 npr r, hu1, hu1', hu2, hu2', reseed_start_val p speed k0 npr r, hlen, hleast, hmost,
    rfl, rfl, rfl⟩

end Sys2Proof.Claims

/-! The decoder and the encoder (30_encoding.md sections 2, 4 and 7): an operation is its four fields, and the decoder answers
exactly the well-formed operation that has the fields of the word. -/

namespace Sys2Proof

/-! ## The fields of an operation -/

/-- The fields UNIT, OP, INST and SEL of an operation's word (30_encoding.md R94). -/
def Instr.fields : Instr → Nat × Nat × Nat × Nat
  | .rbWrite r => (1, 0, r, 0)
  | .rbRead r => (1, 1, r, 0)
  | .mdSetp m => (2, 0, m, 0)
  | .mdProc m => (2, 1, m, 0)
  | .mdGeto m => (2, 2, m, 0)
  | .apSetp a => (3, 0, a, 0)
  | .apSetfb a => (3, 1, a, 0)
  | .apProc a => (3, 2, a, 0)
  | .apGeto a => (3, 3, a, 0)
  | .bqSettype q t => (4, 0, q, t.code)
  | .bqSetfreq q => (4, 1, q, 0)
  | .bqSetfs q => (4, 2, q, 0)
  | .bqUpdate q => (4, 3, q, 0)
  | .bqProc q => (4, 4, q, 0)
  | .rvSetDecay => (5, 0, 0, 0)
  | .rvSetSizeEarly => (5, 0, 0, 1)
  | .rvSetSizeLate => (5, 0, 0, 2)
  | .rvSetDiffuse => (5, 0, 0, 3)
  | .rvSetLowCutPre => (5, 0, 0, 4)
  | .rvSetHighCutPre => (5, 0, 0, 5)
  | .rvSetModulate => (5, 0, 0, 6)
  | .rvSetMix => (5, 0, 0, 7)
  | .rvSetEarlyStages => (5, 0, 0, 8)
  | .rvSetInterpolation => (5, 0, 0, 9)
  | .rvSetFreeze => (5, 0, 0, 10)
  | .rvSetLowCutPost => (5, 0, 0, 11)
  | .rvSetHighCutPost => (5, 0, 0, 12)
  | .rvUpdateall => (5, 1, 0, 0)
  | .rvProc => (5, 2, 0, 0)
  | .gpSetspeed => (6, 0, 0, 0)
  | .gpSeed => (6, 1, 0, 0)
  | .gpProc => (6, 2, 0, 0)

theorem encode_eq_mkCmd (i : Instr) :
    encode i = mkCmd i.fields.1 i.fields.2.1 i.fields.2.2.1 i.fields.2.2.2 := by
  cases i <;> rfl

/-! ## What each part of the decoder answers -/

theorem inRange_eq_ok {n inst : Nat} {i j : Instr} : inRange n inst i = .ok j ↔ inst < n ∧ i = j := by
  unfold inRange
  split <;> simp [*]

theorem plain_eq_ok {n inst sel : Nat} {i j : Instr} : plain n inst sel i = .ok j ↔ sel = 0 ∧ inst < n ∧ i = j := by
  unfold plain
  split <;> simp [inRange_eq_ok, *]

theorem filterTypeOfCode_eq_some {sel : Nat} {t : FilterType} : FilterType.ofCode sel = some t ↔ sel = t.code := by
  constructor
  · intro h
    unfold FilterType.ofCode at h
    split at h <;> cases h <;> rfl
  · rintro rfl
    cases t <;> rfl

/-- A code of 30_encoding.md R85 names the parameter write that has it in its word; each of these is well formed. -/
theorem setparamOfCode_eq_some {sel : Nat} {i : Instr} (h : setparamOfCode sel = some i) :
    i.wf = true ∧ i.fields = (5, 0, 0, sel) := by
  unfold setparamOfCode at h
  split at h <;> cases h <;> exact ⟨rfl, rfl⟩

/-- What the decoder answers is well formed and has the fields it was read from. -/
theorem wf_and_fields_of_decodeFields {u o inst sel : Nat} {i : Instr} (h : decodeFields u o inst sel = .ok i) :
    i.wf = true ∧ i.fields = (u, o, inst, sel) := by
  unfold decodeFields at h
  split at h
  case h_10 =>
    split at h
    · obtain ⟨hinst, rfl⟩ := inRange_eq_ok.1 h
      rename_i ht
      obtain rfl := filterTypeOfCode_eq_some.1 ht
      exact ⟨decide_eq_true hinst, rfl⟩
    · cases h
  case h_15 =>
    split at h
    · obtain ⟨hinst, rfl⟩ := inRange_eq_ok.1 h
      obtain rfl : inst = 0 := by omega
      exact setparamOfCode_eq_some ‹_›
    · cases h
  case h_21 => cases h
  all_goals
    obtain ⟨rfl, hinst, rfl⟩ := plain_eq_ok.1 h
    simp [Instr.wf, Instr.fields, hinst]
  all_goals omega

/-- A well-formed operation is what the decoder answers for its fields. -/
theorem decodeFields_fields {i : Instr} (h : i.wf = true) :
    decodeFields i.fields.1 i.fields.2.1 i.fields.2.2.1 i.fields.2.2.2 = .ok i := by
  cases i with
  | bqSettype q t =>
    have hq : q < numBq := of_decide_eq_true h
    simp only [Instr.fields, decodeFields, filterTypeOfCode_eq_some.2 rfl, inRange_eq_ok.2 ⟨hq, rfl⟩]
  | rbWrite n | rbRead n | mdSetp n | mdProc n | mdGeto n | apSetp n | apSetfb n | apProc n | apGeto n | bqSetfreq n
    | bqSetfs n | bqUpdate n | bqProc n => exact plain_eq_ok.2 ⟨rfl, of_decide_eq_true h, rfl⟩
  | _ => rfl

/-- The fields of a well-formed operation fit the word (30_encoding.md R81). -/
theorem fields_lt_of_wf {i : Instr} (h : i.wf = true) :
    i.fields.1 < 16 ∧ i.fields.2.1 < 16 ∧ i.fields.2.2.1 < 256 ∧ i.fields.2.2.2 < 256 := by
  cases i with
  | bqSettype q t =>
    have hq : q < numBq := of_decide_eq_true h
    have ht : t.code < 4 := by cases t <;> decide
    simp only [numBq, Instr.fields] at hq ⊢
    omega
  | rbWrite n | rbRead n | mdSetp n | mdProc n | mdGeto n | apSetp n | apSetfb n | apProc n | apGeto n | bqSetfreq n
    | bqSetfs n | bqUpdate n | bqProc n =>
    have hn : n < _ := of_decide_eq_true h
    simp only [numRb, numMd, numAp, numBq, Instr.fields] at hn ⊢
    omega
  | _ => exact ⟨by decide, by decide, by decide, by decide⟩

/-! ## Words -/

theorem decode_mkCmd {u o inst sel : Nat} (hu : u < 16) (ho : o < 16) (hi : inst < 256) (hs : sel < 256) :
    decode (mkCmd u o inst sel) = decodeFields u o inst sel := by
  simp [decode, Nat.mod_eq_of_lt, hu, ho, hi, hs]

/-- A word whose ZERO byte is 0 is assembled from its other four fields. -/
theorem mkCmd_fields {w : CmdWord} (h : fieldZero w = 0) :
    mkCmd (fieldUnit w) (fieldOp w) (fieldInst w) (fieldSel w) = w := by
  obtain ⟨hu, ho, hi, hs, -⟩ := fields_lt w
  refine BitVec.eq_of_toNat_eq ?_
  rw [mkCmd_toNat, fields_toNat w, h, Nat.mod_eq_of_lt hu, Nat.mod_eq_of_lt ho, Nat.mod_eq_of_lt hi, Nat.mod_eq_of_lt hs]
  omega

theorem decode_eq_ok {w : CmdWord} {i : Instr} :
    decode w = .ok i ↔ fieldZero w = 0 ∧ decodeFields (fieldUnit w) (fieldOp w) (fieldInst w) (fieldSel w) = .ok i := by
  unfold decode
  split <;> simp [*]

end Sys2Proof

namespace Sys2Proof.Claims

/-- Settles O1: seven legal words and four that are refused, read by the decoder. -/
theorem decodeReadsSpecWords : Obligations.DecodeReadsSpecWords := by
  unfold Obligations.DecodeReadsSpecWords
  decide

/-- Settles O2: the word holds the operation's fields unshortened, and the decoder answers the operation that has them. -/
theorem decodeInvertsEncode : Obligations.DecodeInvertsEncode := by
  unfold Obligations.DecodeInvertsEncode
  intro i h
  obtain ⟨hu, ho, hi, hs⟩ := fields_lt_of_wf h
  rw [encode_eq_mkCmd, decode_mkCmd hu ho hi hs, decodeFields_fields h]

/-- Settles O3: the operation read has the fields of the word, whose ZERO byte is 0, so they assemble to the word. -/
theorem encodeInvertsDecode : Obligations.EncodeInvertsDecode := by
  unfold Obligations.EncodeInvertsDecode
  intro w i h
  obtain ⟨hzero, hfields⟩ := decode_eq_ok.1 h
  obtain ⟨hwf, hi⟩ := wf_and_fields_of_decodeFields hfields
  exact ⟨hwf, by rw [encode_eq_mkCmd, hi, mkCmd_fields hzero]⟩

end Sys2Proof.Claims

/-! Legal words (30_encoding.md R89), the end of an operation, and one inversion lemma for `exec`: whatever an operation does, it is
refused or it ends in the state its row of the opcode table describes. -/

namespace Sys2Proof.Claims

/-! ## Legal words -/

theorem extractUnit (w : CmdWord) : (w.extractLsb' 28 4).toNat = fieldUnit w := by
  simp [fieldUnit, cmdField, Nat.shiftRight_eq_div_pow]

theorem extractOp (w : CmdWord) : (w.extractLsb' 24 4).toNat = fieldOp w := by
  simp [fieldOp, cmdField, Nat.shiftRight_eq_div_pow]

theorem extractInst (w : CmdWord) : (w.extractLsb' 16 8).toNat = fieldInst w := by
  simp [fieldInst, cmdField, Nat.shiftRight_eq_div_pow]

theorem extractSel (w : CmdWord) : (w.extractLsb' 8 8).toNat = fieldSel w := by
  simp [fieldSel, cmdField, Nat.shiftRight_eq_div_pow]

theorem extractZero_iff (w : CmdWord) : w.extractLsb' 0 8 = 0#8 ↔ fieldZero w = 0 := by
  rw [← BitVec.toNat_inj]
  simp [fieldZero, cmdField]

theorem exists_filterType {sel : Nat} (h : sel < 4) : ∃ t, FilterType.ofCode sel = some t := by
  interval_cases sel <;> exact ⟨_, rfl⟩

theorem exists_setparam {sel : Nat} (h : sel < 13) : ∃ i, setparamOfCode sel = some i := by
  interval_cases sel <;> exact ⟨_, rfl⟩

/-- The fields of a well-formed operation lie in its row of the table of 30_encoding.md R83 to R86. -/
theorem fields_mem_legalOperations {i : Instr} (h : i.wf = true) : ∃ row ∈ legalOperations,
    i.fields.1 = row.1 ∧ i.fields.2.1 = row.2.1 ∧ i.fields.2.2.1 < row.2.2.1 ∧ i.fields.2.2.2 < row.2.2.2 := by
  cases i with
  | bqSettype q t =>
    have ht : t.code < 4 := by cases t <;> decide
    exact ⟨(4, 0, 4, 4), by decide, rfl, rfl, of_decide_eq_true h, ht⟩
  | rbWrite n | rbRead n | mdSetp n | mdProc n | mdGeto n | apSetp n | apSetfb n | apProc n | apGeto n | bqSetfreq n
    | bqSetfs n | bqUpdate n | bqProc n =>
    have hn := of_decide_eq_true h
    simp only [numRb, numMd, numAp, numBq] at hn
    simp [legalOperations, Instr.fields, hn]
  | _ => decide

/-- The fields of a row of the table are those of an operation. -/
theorem decodeFields_of_mem_legalOperations {row : Nat × Nat × Nat × Nat} (hrow : row ∈ legalOperations) {inst sel : Nat}
    (hinst : inst < row.2.2.1) (hsel : sel < row.2.2.2) : ∃ i, decodeFields row.1 row.2.1 inst sel = .ok i := by
  have plain_ok {n : Nat} {i : Instr} (hn : inst < n) (h0 : sel < 1) : ∃ j, plain n inst sel i = .ok j :=
    ⟨i, plain_eq_ok.2 ⟨by omega, hn, rfl⟩⟩
  fin_cases hrow
  -- The two rows with a selector, from the later to the earlier: RV.SETPARAM, then BQ.SETTYPE.
  on_goal 15 =>
    obtain ⟨i, hi⟩ := exists_setparam hsel
    exact ⟨i, by simp only [decodeFields, hi]; exact inRange_eq_ok.2 ⟨hinst, rfl⟩⟩
  on_goal 10 =>
    obtain ⟨t, ht⟩ := exists_filterType hsel
    exact ⟨.bqSettype inst t, by simp only [decodeFields, ht]; exact inRange_eq_ok.2 ⟨hinst, rfl⟩⟩
  all_goals exact plain_ok hinst hsel

/-- 30_encoding.md R89: a word decodes exactly when the conditions (a) to (d) hold. -/
theorem exists_decode_iff (w : CmdWord) : (∃ i, decode w = .ok i) ↔ legalWord w := by
  unfold legalWord
  rw [extractUnit, extractOp, extractInst, extractSel, extractZero_iff]
  constructor
  · rintro ⟨i, h⟩
    obtain ⟨hzero, hfields⟩ := decode_eq_ok.1 h
    obtain ⟨hwf, hi⟩ := wf_and_fields_of_decodeFields hfields
    have hrow := fields_mem_legalOperations hwf
    rw [hi] at hrow
    exact ⟨hrow, hzero⟩
  · rintro ⟨⟨row, hrow, hu, ho, hinst, hsel⟩, hzero⟩
    obtain ⟨i, hi⟩ := decodeFields_of_mem_legalOperations hrow hinst hsel
    exact ⟨i, decode_eq_ok.2 ⟨hzero, by rw [hu, ho, hi]⟩⟩

end Sys2Proof.Claims

/-! The end of an operation, and one inversion lemma for `exec`: whatever an operation is given, it is refused or it ends in the
state that its row of the opcode table describes. -/

namespace Sys2Proof.Machine

open Sys2Proof.Claims

/-! ## What the body of an operation leaves to the host -/

/-- Between `s` and `t` the host's side of the interface stays, and the ghost log is at most extended (60_exceptions.md R213). -/
structure KeepsHost (s t : State) : Prop where
  cfg : t.cfg = s.cfg
  queue : t.queue = s.queue
  outbox : t.outbox = s.outbox
  idx : t.idx = s.idx
  viol : ∃ vs, t.viol = s.viol ++ vs

theorem KeepsHost.of_viol_eq {s t : State} (cfg : t.cfg = s.cfg) (queue : t.queue = s.queue)
    (outbox : t.outbox = s.outbox) (idx : t.idx = s.idx) (viol : t.viol = s.viol) : KeepsHost s t :=
  ⟨cfg, queue, outbox, idx, [], by rw [viol, List.append_nil]⟩

theorem KeepsHost.refl (s : State) : KeepsHost s s := .of_viol_eq rfl rfl rfl rfl rfl

theorem KeepsHost.trans {s t u : State} (h : KeepsHost s t) (k : KeepsHost t u) : KeepsHost s u := by
  obtain ⟨vs, hvs⟩ := h.viol
  obtain ⟨ws, hws⟩ := k.viol
  exact ⟨k.cfg.trans h.cfg, k.queue.trans h.queue, k.outbox.trans h.outbox, k.idx.trans h.idx, vs ++ ws,
    by rw [hws, hvs, List.append_assoc]⟩

/-- An operation that leaves the host's side alone and then answers has completed (30_encoding.md R80, R93, 10_state.md R45). -/
theorem KeepsHost.answer {s t : State} (h : KeepsHost s t) (r0 : Option NUM) (x0 x1 : List NUM) :
    Completed s (t.answer r0 x0 x1) r0 x0 x1 where
  cfg := h.cfg
  queue := h.queue
  args := rfl
  idx := congrArg (· + 1) h.idx
  answer := ⟨_, by rw [State.answer_outbox, h.outbox], by rintro v rfl; rfl, fillBlock_take _ _ _ _, fillBlock_take _ _ _ _⟩

theorem KeepsHost.done {s t : State} (h : KeepsHost s t) : Completed s t.done none [] [] := h.answer none [] []

section
variable {s t : State}

theorem KeepsHost.log (h : KeepsHost s t) (vs : List Viol) : KeepsHost s (t.log vs) :=
  h.trans ⟨rfl, rfl, rfl, rfl, vs, rfl⟩

theorem KeepsHost.engineOwned (h : KeepsHost s t) (i : Instr) : KeepsHost s (t.engineOwned i) := by
  rw [State.engineOwned_eq]; exact h.log _

theorem KeepsHost.bufferOwned (h : KeepsHost s t) (r : Fin 25) (i : Instr) : KeepsHost s (t.bufferOwned r i) := by
  rw [State.bufferOwned_eq]; exact h.log _

theorem KeepsHost.setRb (h : KeepsHost s t) (r : Fin 25) (b : RingBuf) : KeepsHost s (t.setRb r b) :=
  h.trans (.of_viol_eq rfl rfl rfl rfl rfl)

theorem KeepsHost.setMd (h : KeepsHost s t) (m : Fin 24) (d : ModDelay) : KeepsHost s (t.setMd m d) :=
  h.trans (.of_viol_eq rfl rfl rfl rfl rfl)

theorem KeepsHost.setAp (h : KeepsHost s t) (a : Fin 20) (d : Allpass) : KeepsHost s (t.setAp a d) :=
  h.trans (.of_viol_eq rfl rfl rfl rfl rfl)

theorem KeepsHost.setBq (h : KeepsHost s t) (q : Fin 4) (d : Biquad) : KeepsHost s (t.setBq q d) :=
  h.trans (.of_viol_eq rfl rfl rfl rfl rfl)

theorem KeepsHost.setGp (h : KeepsHost s t) (g : Shifter) : KeepsHost s (t.setGp g) :=
  h.trans (.of_viol_eq rfl rfl rfl rfl rfl)

theorem KeepsHost.setRv (h : KeepsHost s t) (e : Engine) : KeepsHost s (t.setRv e) :=
  h.trans (.of_viol_eq rfl rfl rfl rfl rfl)

theorem KeepsHost.setRvRan (h : KeepsHost s t) (b : Bool) : KeepsHost s { t with rvRan := b } :=
  h.trans (.of_viol_eq rfl rfl rfl rfl rfl)

theorem KeepsHost.setGpRan (h : KeepsHost s t) (b : Bool) : KeepsHost s { t with gpRan := b } :=
  h.trans (.of_viol_eq rfl rfl rfl rfl rfl)

theorem KeepsHost.mdProc (h : KeepsHost s t) (m : Fin 24) (x : List NUM) : KeepsHost s (t.mdProc m x) :=
  ((h.setRb _ _).setMd _ _).log _

theorem KeepsHost.apProc (h : KeepsHost s t) (a : Fin 20) (x : List NUM) : KeepsHost s (t.apProc a x) :=
  (((h.setRb _ _).setMd _ _).setAp _ _).log _

theorem KeepsHost.bqProc (h : KeepsHost s t) (q : Fin 4) (x : List NUM) : KeepsHost s (t.bqProc q x).1 :=
  (h.log _).setBq _ _

theorem KeepsHost.gpProc (h : KeepsHost s t) (x : List NUM) : KeepsHost s (t.gpProc x).1 :=
  ((h.setRb _ _).setGp _).log _

theorem KeepsHost.updateAll (h : KeepsHost s t) : KeepsHost s t.updateAll :=
  h.trans ⟨t.updateAll_cfg, t.updateAll_queue, t.updateAll_outbox, t.updateAll_idx, _, t.updateAll_viol⟩

end

/-! ## RV.PROC as a run of unit operations -/

/-- Series of allpasses keep what AP.PROC keeps. -/
theorem State.chain_induction {P : State → Prop} (hap : ∀ s a x, P s → P (s.apProc a x)) {s : State} (h : P s)
    (as : List (Fin 20)) (c : List NUM) : P (s.chain as c) := by
  induction as generalizing s c with
  | nil => exact h
  | cons a rest ih => exact ih (hap s a c h) _

/-- Whatever BQ.PROC, AP.PROC, MD.PROC and a write of the engine's own registers keep, the block of RV.PROC keeps
(44_reverb_engine.md R171). -/
theorem State.rvBlock_induction {P : State → Prop} (hrv : ∀ s e, P s → P (s.setRv e))
    (hbq : ∀ s q x, P s → P (s.bqProc q x).1) (hap : ∀ s a x, P s → P (s.apProc a x))
    (hmd : ∀ s m x, P s → P (s.mdProc m x)) {s : State} (h : P s) (stage : Fin 12) (l r : List NUM) :
    P (s.rvBlock stage l r) := by
  have hlane (s : State) (i : Fin 4) (h : P s) : P (s.lane i) := by
    unfold State.lane
    split
    · exact hmd _ _ _ (State.chain_induction hap (hbq _ _ _ (hbq _ _ _ h)) _ _)
    · exact hmd _ _ _ (State.chain_induction hap h _ _)
  have hpre : P (s.smoothFreeze.preFilter l r) := hrv _ _ (hbq _ _ _ (hbq _ _ _ (hrv _ _ h)))
  have hdiffused := State.chain_induction hap hpre preStages (s.smoothFreeze.preFilter l r).blk.rv.mono
  exact hlane _ 3 (hlane _ 2 (hlane _ 1 (hlane _ 0 (hrv _ _ (hrv _ _ hdiffused)))))

theorem KeepsHost.rvBlock {s t : State} (h : KeepsHost s t) (stage : Fin 12) (l r : List NUM) :
    KeepsHost s (t.rvBlock stage l r) :=
  State.rvBlock_induction (P := KeepsHost s) (fun _ e h => h.setRv e) (fun _ q x h => h.bqProc q x)
    (fun _ a x h => h.apProc a x) (fun _ m x h => h.mdProc m x) h stage l r

/-! ## Every operation -/

/-- How an operation can end: refused with one record, or in the state its row of 30_encoding.md R94 describes. -/
inductive Executed (s : State) : Instr → State → Prop
  | refused (i : Instr) (v : Viol) : Executed s i (s.refuse v)
  | rbWrite (r : Fin 25) : Executed s (.rbWrite r)
      ((s.bufferOwned r (.rbWrite r)).setRb r (Machine.rbWrite s.cfg r s.blk.rb[r] s.args.a0)).done
  | rbRead (r : Fin 25) : Executed s (.rbRead r)
      ((s.log (rbReadViol s.cfg r s.blk.rb[r] s.args.a0)).answer
        (some (Machine.rbRead s.cfg r s.blk.rb[r] s.args.a0)) [] [])
  | mdSetp (m : Fin 24) (len : Nat) : Executed s (.mdSetp m) ((s.engineOwned (.mdSetp m)).mdSetParams m len).done
  | mdProc (m : Fin 24) (x : List NUM) (hx : blockOperand (.mdProc m) s = .ok x) :
      Executed s (.mdProc m) ((s.engineOwned (.mdProc m)).mdProc m x).done
  | mdGeto (m : Fin 24) : Executed s (.mdGeto m) (s.answer none s.blk.md[m].out [])
  | apSetp (a : Fin 20) (len : Nat) : Executed s (.apSetp a)
      ((s.engineOwned (.apSetp a)).mdSetParams (mdOfAp a) len).done
  | apSetfb (a : Fin 20) : Executed s (.apSetfb a)
      (((s.engineOwned (.apSetfb a)).setAp a { s.blk.ap[a] with fb := s.args.a0 }).log (fbViol a s.args.a0)).done
  | apProc (a : Fin 20) (x : List NUM) (hx : blockOperand (.apProc a) s = .ok x) :
      Executed s (.apProc a) ((s.engineOwned (.apProc a)).apProc a x).done
  | apGeto (a : Fin 20) : Executed s (.apGeto a) (s.answer none s.blk.ap[a].out [])
  | bqSettype (q : Fin 4) (ty : FilterType) : Executed s (.bqSettype q ty)
      ((s.engineOwned (.bqSettype q ty)).setBq q { s.blk.bq[q] with type := ty }).done
  | bqSetfreq (q : Fin 4) : Executed s (.bqSetfreq q)
      ((s.engineOwned (.bqSetfreq q)).setBq q { s.blk.bq[q] with freq := s.args.a0 }).done
  | bqSetfs (q : Fin 4) (hfs : 0 < s.args.a0.val) : Executed s (.bqSetfs q)
      ((s.engineOwned (.bqSetfs q)).setBq q { s.blk.bq[q] with fs := s.args.a0 }).done
  | bqUpdate (q : Fin 4) : Executed s (.bqUpdate q)
      ((s.engineOwned (.bqUpdate q)).setBq q (s.blk.bq[q].update s.cfg.design)).done
  | bqProc (q : Fin 4) (x : List NUM) (hx : blockOperand (.bqProc q) s = .ok x) : Executed s (.bqProc q)
      (((s.engineOwned (.bqProc q)).bqProc q x).1.answer none ((s.engineOwned (.bqProc q)).bqProc q x).2 [])
  | rvSetparam (id : ParamId) (hid : inDomain id s.args.a0 = true) :
      Executed s (Packet.setparamInstr id) (s.setParam id s.args.a0).updateAll.done
  | rvUpdateall : Executed s .rvUpdateall s.updateAll.done
  | rvProc (stage : Fin 12) (x : List NUM × List NUM) (hx : stereoOperand .rvProc s = .ok x)
      (hstage : stageOperand (s.param .earlyStages) = some stage) :
      Executed s .rvProc ((s.rvBlock stage x.1 x.2).rvFinish x)
  | gpSetspeed : Executed s .gpSetspeed
      ((s.setGp { s.blk.gp with speed := s.args.a0 }).log (speedViol s.args.a0)).done
  | gpSeed (k : Nat) : Executed s .gpSeed (s.setGp { s.blk.gp with rng := ⟨k, 0⟩ }).done
  | gpProc (x : List NUM) (hx : blockOperand .gpProc s = .ok x) : Executed s .gpProc
      (({ (s.gpProc x).1 with gpRan := true } : State).answer none (s.gpProc x).2 [])

section
variable {s : State}

theorem onInstance_executed {n inst : Nat} {i : Instr} {run : Fin n → State}
    (h : ∀ k : Fin n, inst = k → Executed s i (run k)) : ∃ t, onInstance n i inst s run = .next t ∧ Executed s i t := by
  obtain ⟨hinst, hrun⟩ | ⟨-, hrefused⟩ := onInstance_cases s n i inst run
  · exact ⟨_, hrun, h ⟨inst, hinst⟩ rfl⟩
  · exact ⟨_, hrefused, .refused i _⟩

theorem withOperand_executed {α : Type} {o : Except Viol α} {i : Instr} {run : α → State}
    (h : ∀ a, o = .ok a → Executed s i (run a)) : Executed s i (withOperand s o run) := by
  obtain ⟨a, ha, hrun⟩ | ⟨v, -, hrefused⟩ := withOperand_cases s o run
  · rw [hrun]; exact h a ha
  · rw [hrefused]; exact .refused i v

theorem State.rvSetparam_executed (id : ParamId) :
    Executed s (Packet.setparamInstr id) (s.rvSetparam (Packet.setparamInstr id) id) := by
  unfold State.rvSetparam
  split
  · exact .rvSetparam id ‹_›
  · exact .refused _ _

/-- RV.SETPARAM of each id, written once (44_reverb_engine.md R154). -/
theorem exec_setparamInstr (s : State) (id : ParamId) :
    exec (Packet.setparamInstr id) s = .next (s.rvSetparam (Packet.setparamInstr id) id) := by
  cases id <;> rfl

theorem exec_setparamInstr_executed (s : State) (id : ParamId) :
    ∃ t, exec (Packet.setparamInstr id) s = .next t ∧ Executed s (Packet.setparamInstr id) t :=
  ⟨_, exec_setparamInstr s id, State.rvSetparam_executed id⟩

theorem rate_pos_of_rateOperand {i : Instr} {v : NUM} (h : rateOperand i s = .ok v) : v = s.args.a0 ∧ 0 < s.args.a0.val := by
  obtain hpos | hneg := lt_or_ge 0 s.args.a0.val
  · rw [rateOperand_of_pos hpos] at h
    exact ⟨(Except.ok.inj h).symm, hpos⟩
  · rw [rateOperand_of_nonpos hneg] at h
    cases h

theorem exec_rvProc_executed (s : State) : ∃ t, exec .rvProc s = .next t ∧ Executed s .rvProc t := by
  cases hx : stereoOperand .rvProc s with
  | error v => exact ⟨_, exec_rvProc_of_illTyped hx, .refused _ v⟩
  | ok x =>
    cases hk : stageOperand (s.param .earlyStages) with
    | none => exact ⟨_, exec_rvProc_of_noStage hx hk, .refused _ _⟩
    | some stage => exact ⟨_, exec_rvProc_of_stage hx hk, .rvProc stage x hx hk⟩

/-- Every operation answers a next state, and one of those it can end in. -/
theorem exists_exec (i : Instr) (s : State) : ∃ t, exec i s = .next t ∧ Executed s i t := by
  cases i with
  | rbWrite r =>
    rw [exec, execRbWrite]
    exact onInstance_executed (by rintro k rfl; exact .rbWrite k)
  | rbRead r =>
    rw [exec, execRbRead]
    exact onInstance_executed (by rintro k rfl; exact .rbRead k)
  | mdSetp m =>
    rw [exec, execMdSetp]
    exact onInstance_executed (by rintro k rfl; exact withOperand_executed fun len _ => .mdSetp k len)
  | mdProc m =>
    rw [exec, execMdProc]
    exact onInstance_executed (by rintro k rfl; exact withOperand_executed fun x hx => .mdProc k x hx)
  | mdGeto m =>
    rw [exec, execMdGeto]
    exact onInstance_executed (by rintro k rfl; exact .mdGeto k)
  | apSetp a =>
    rw [exec, execApSetp]
    exact onInstance_executed (by rintro k rfl; exact withOperand_executed fun len _ => .apSetp k len)
  | apSetfb a =>
    rw [exec, execApSetfb]
    exact onInstance_executed (by rintro k rfl; exact .apSetfb k)
  | apProc a =>
    rw [exec, execApProc]
    exact onInstance_executed (by rintro k rfl; exact withOperand_executed fun x hx => .apProc k x hx)
  | apGeto a =>
    rw [exec, execApGeto]
    exact onInstance_executed (by rintro k rfl; exact .apGeto k)
  | bqSettype q ty =>
    rw [exec, execBqSettype]
    exact onInstance_executed (by rintro k rfl; exact .bqSettype k ty)
  | bqSetfreq q =>
    rw [exec, execBqSetfreq]
    exact onInstance_executed (by rintro k rfl; exact .bqSetfreq k)
  | bqSetfs q =>
    rw [exec, execBqSetfs]
    refine onInstance_executed ?_
    rintro k rfl
    refine withOperand_executed fun v hv => ?_
    obtain ⟨rfl, hpos⟩ := rate_pos_of_rateOperand hv
    exact .bqSetfs k hpos
  | bqUpdate q =>
    rw [exec, execBqUpdate]
    exact onInstance_executed (by rintro k rfl; exact .bqUpdate k)
  | bqProc q =>
    rw [exec, execBqProc]
    exact onInstance_executed (by rintro k rfl; exact withOperand_executed fun x hx => .bqProc k x hx)
  | rvSetDecay => exact exec_setparamInstr_executed s .decay
  | rvSetSizeEarly => exact exec_setparamInstr_executed s .sizeEarly
  | rvSetSizeLate => exact exec_setparamInstr_executed s .sizeLate
  | rvSetDiffuse => exact exec_setparamInstr_executed s .diffuse
  | rvSetLowCutPre => exact exec_setparamInstr_executed s .lowCutPre
  | rvSetHighCutPre => exact exec_setparamInstr_executed s .highCutPre
  | rvSetModulate => exact exec_setparamInstr_executed s .modulate
  | rvSetMix => exact exec_setparamInstr_executed s .mix
  | rvSetEarlyStages => exact exec_setparamInstr_executed s .earlyStages
  | rvSetInterpolation => exact exec_setparamInstr_executed s .interpolation
  | rvSetFreeze => exact exec_setparamInstr_executed s .freeze
  | rvSetLowCutPost => exact exec_setparamInstr_executed s .lowCutPost
  | rvSetHighCutPost => exact exec_setparamInstr_executed s .highCutPost
  | rvUpdateall => exact ⟨_, exec_rvUpdateall s, .rvUpdateall⟩
  | rvProc => exact exec_rvProc_executed s
  | gpSetspeed => exact ⟨_, rfl, .gpSetspeed⟩
  | gpSeed =>
    refine ⟨_, exec_gpSeed s, ?_⟩
    split
    · exact .gpSeed _
    · exact .refused _ _
  | gpProc => exact ⟨_, rfl, withOperand_executed fun x hx => .gpProc x hx⟩

/-- The inversion lemma: what an operation answers is one of the states it can end in. -/
theorem executed_of_exec {i : Instr} {t : State} (h : exec i s = .next t) : Executed s i t := by
  obtain ⟨u, hu, hexecuted⟩ := exists_exec i s
  obtain rfl := Host.Outcome.next.inj (hu.symm.trans h)
  exact hexecuted

/-- Every operation has completed, whatever it was, and has taken nothing out of the ghost log. -/
theorem Executed.completed {i : Instr} {t : State} (h : Executed s i t) :
    Completed s t none [] [] ∧ ∃ vs, t.viol = s.viol ++ vs := by
  have ends {u : State} (hu : KeepsHost s u) (r0 : Option NUM) (x0 x1 : List NUM) :
      Completed s (u.answer r0 x0 x1) none [] [] ∧ ∃ vs, (u.answer r0 x0 x1).viol = s.viol ++ vs := by
    obtain ⟨cfg, queue, args, idx, a, ha, -, -, -⟩ := hu.answer r0 x0 x1
    exact ⟨⟨cfg, queue, args, idx, a, ha, by simp, by simp, by simp⟩, hu.viol⟩
  have hs := KeepsHost.refl s
  cases h with
  | refused _ v => exact ends (hs.log [v]) _ _ _
  | rbWrite r => exact ends ((hs.bufferOwned r _).setRb r _) _ _ _
  | rbRead r => exact ends (hs.log _) _ _ _
  | mdSetp m len => exact ends ((hs.engineOwned _).setMd m _) _ _ _
  | mdProc m x => exact ends ((hs.engineOwned _).mdProc m x) _ _ _
  | mdGeto m => exact ends hs _ _ _
  | apSetp a len => exact ends ((hs.engineOwned _).setMd (mdOfAp a) _) _ _ _
  | apSetfb a => exact ends (((hs.engineOwned _).setAp a _).log _) _ _ _
  | apProc a x => exact ends ((hs.engineOwned _).apProc a x) _ _ _
  | apGeto a => exact ends hs _ _ _
  | bqSettype q ty => exact ends ((hs.engineOwned _).setBq q _) _ _ _
  | bqSetfreq q => exact ends ((hs.engineOwned _).setBq q _) _ _ _
  | bqSetfs q => exact ends ((hs.engineOwned _).setBq q _) _ _ _
  | bqUpdate q => exact ends ((hs.engineOwned _).setBq q _) _ _ _
  | bqProc q x => exact ends ((hs.engineOwned _).bqProc q x) _ _ _
  | rvSetparam id => exact ends (KeepsHost.updateAll (t := s.setParam id s.args.a0) (hs.setRv _)) _ _ _
  | rvUpdateall => exact ends hs.updateAll _ _ _
  | rvProc stage x =>
    rw [State.rvFinish]
    exact ends ((hs.rvBlock stage x.1 x.2).setRvRan true) _ _ _
  | gpSetspeed => exact ends ((hs.setGp _).log _) _ _ _
  | gpSeed k => exact ends (hs.setGp _) _ _ _
  | gpProc x => exact ends ((hs.gpProc x).setGpRan true) _ _ _

/-- A refused packet (60_exceptions.md R210, R215). -/
theorem State.refuse_refused (s : State) (v : Viol) : Refused s (s.refuse v) v :=
  ⟨rfl, rfl, ⟨rfl, rfl⟩, ((KeepsHost.refl s).log [v]).done⟩

end

/-! ## The step -/

section
variable {s : State} {p : Packet} {rest : List Packet}

theorem step_of_waiting (h : s.queue = p :: rest) : step s = runPacket p (s.take p rest) := by
  rw [step, h]

theorem step_of_idle (h : s.queue = []) : step s = .next s := by rw [step, h]

theorem runPacket_of_legal {i : Instr} (h : decode p.cmd = .ok i) : runPacket p s = exec i s := by
  rw [runPacket, h]

theorem runPacket_of_illegal (h : ¬ legalWord p.cmd) : runPacket p s = .next (s.refuse (.illegalCmd p.cmd)) := by
  unfold runPacket
  split
  · rename_i i hi
    exact absurd ((exists_decode_iff _).1 ⟨i, hi⟩) h
  · rfl

/-- A packet is refused as illegal or runs an operation, on the state in which it has been taken. -/
theorem exists_runPacket (p : Packet) (s : State) : ∃ t i, runPacket p s = .next t ∧ Executed s i t := by
  cases hi : decode p.cmd with
  | ok i =>
    obtain ⟨t, ht, hexecuted⟩ := exists_exec i s
    exact ⟨t, i, by rw [runPacket_of_legal hi, ht], hexecuted⟩
  | error e => exact ⟨_, .rvProc, by rw [runPacket, hi], .refused _ _⟩

/-- The inversion lemma of the step: it keeps the state, or it executes an operation on the state in which the first packet has
been taken. -/
theorem step_cases {t : State} (h : step s = .next t) : t = s ∨ ∃ p rest i, Executed (s.take p rest) i t := by
  cases hq : s.queue with
  | nil => exact .inl (Host.Outcome.next.inj ((step_of_idle hq).symm.trans h)).symm
  | cons p rest =>
    obtain ⟨u, i, hu, hexecuted⟩ := exists_runPacket p (s.take p rest)
    obtain rfl := Host.Outcome.next.inj ((((step_of_waiting hq).trans hu).symm).trans h)
    exact .inr ⟨p, rest, i, hexecuted⟩

end

end Sys2Proof.Machine

namespace Sys2Proof.Claims

open Sys2Proof.Machine

/-- Settles O4: the decoder is read off the table of legal operations; the step refuses a word it does not decode. -/
theorem legalWordsDecodeOthersAreRefused : Obligations.LegalWordsDecodeOthersAreRefused := by
  unfold Obligations.LegalWordsDecodeOthersAreRefused
  refine ⟨exists_decode_iff, fun s p rest hq hw => ?_⟩
  exact ⟨_, (step_of_waiting hq).trans (runPacket_of_illegal hw), State.refuse_refused _ _⟩

/-- Settles O5: the two clauses of `step`, and that of `runPacket` for a legal word. -/
theorem stepRunsTheDecodedOperation : Obligations.StepRunsTheDecodedOperation := by
  unfold Obligations.StepRunsTheDecodedOperation
  exact ⟨fun s p rest i hq hi => (step_of_waiting hq).trans (runPacket_of_legal hi), fun s => step_of_idle⟩

/-- Settles O6: every way an operation can end is a completion. -/
theorem everyPacketIsAnswered : Obligations.EveryPacketIsAnswered := by
  unfold Obligations.EveryPacketIsAnswered
  intro s p rest hq
  obtain ⟨t, i, ht, hexecuted⟩ := exists_runPacket p (s.take p rest)
  exact ⟨t, (step_of_waiting hq).trans ht, hexecuted.completed⟩

end Sys2Proof.Claims

/-! Ring buffers over all operations (10_state.md section 2, 20_memory.md section 1): whatever is executed, a buffer changes only
by samples written at its cursor one after the other. So no cursor moves back, and every storage stays canonical. -/

namespace Sys2Proof.Machine

/-- An element of a vector after one element has been set. -/
theorem getElem_fin_set {α : Type} {n : Nat} (v : Vector α n) (k j : Fin n) (a : α) :
    (v.set k a)[j] = if j = k then a else v[j] := by
  simp only [Fin.getElem_fin, Vector.getElem_set, ← Fin.ext_iff, eq_comm]

theorem getElem_fin_set_self {α : Type} {n : Nat} (v : Vector α n) (k : Fin n) (a : α) : (v.set k a)[k] = a := by
  rw [getElem_fin_set, if_pos rfl]

theorem getElem_fin_set_ne {α : Type} {n : Nat} {v : Vector α n} {k j : Fin n} {a : α} (h : j ≠ k) :
    (v.set k a)[j] = v[j] := by
  rw [getElem_fin_set, if_neg h]

/-! ## The samples AP.PROC writes -/

/-- The samples `u` that the sample loop of AP.PROC writes into the buffer (42_modulated_allpass.md R123). -/
def apFed (p : Params) (r : Fin 25) (m : ModDelay) (g : NUM) : RingBuf → List NUM → List NUM
  | _, [] => []
  | b, x :: rest =>
    let u := x.add (g.mul (rbRead p r b (m.tap b.wc)))
    u :: apFed p r m g (rbWrite p r b u) rest

@[simp] theorem apFed_length (p : Params) (r : Fin 25) (m : ModDelay) (g : NUM) (b : RingBuf) (x : List NUM) :
    (apFed p r m g b x).length = x.length := by
  induction x generalizing b with
  | nil => rfl
  | cons v x ih => rw [apFed, List.length_cons, ih, List.length_cons]

theorem apLoop_buf (p : Params) (r : Fin 25) (m : ModDelay) (g : NUM) (b : RingBuf) (x : List NUM) :
    (apLoop p r m g b x).buf = (apFed p r m g b x).foldl (rbWrite p r) b := by
  induction x generalizing b with
  | nil => rfl
  | cons v x ih => exact ih _

/-! ## Buffers fed with samples -/

/-- From `s` to `t` every ring buffer has taken some samples, each at its cursor (40_ring_buffer.md R101). -/
structure BuffersFed (s t : State) : Prop where
  cfg : t.cfg = s.cfg
  fed : ∀ r : Fin 25, ∃ x : List NUM, t.blk.rb[r] = x.foldl (rbWrite s.cfg r) s.blk.rb[r]

theorem BuffersFed.of_eq {s t : State} (cfg : t.cfg = s.cfg) (h : t.blk.rb = s.blk.rb) : BuffersFed s t :=
  ⟨cfg, fun r => ⟨[], by rw [h]; rfl⟩⟩

theorem BuffersFed.refl (s : State) : BuffersFed s s := .of_eq rfl rfl

theorem BuffersFed.trans {s t u : State} (h : BuffersFed s t) (k : BuffersFed t u) : BuffersFed s u := by
  refine ⟨k.cfg.trans h.cfg, fun r => ?_⟩
  obtain ⟨x, hx⟩ := h.fed r
  obtain ⟨y, hy⟩ := k.fed r
  exact ⟨x ++ y, by rw [hy, hx, h.cfg, List.foldl_append]⟩

theorem BuffersFed.of_set {s t : State} (k : Fin 25) (x : List NUM) (cfg : t.cfg = s.cfg)
    (h : t.blk.rb = s.blk.rb.set k (x.foldl (rbWrite s.cfg k) s.blk.rb[k])) : BuffersFed s t := by
  refine ⟨cfg, fun r => ?_⟩
  by_cases hr : r = k
  · exact ⟨x, by rw [hr, h, getElem_fin_set_self]⟩
  · exact ⟨[], by rw [h, getElem_fin_set_ne hr]; rfl⟩

/-- The end of an operation does not touch the buffers. -/
theorem BuffersFed.answer {s t : State} (h : BuffersFed s t) (r0 : Option NUM) (x0 x1 : List NUM) :
    BuffersFed s (t.answer r0 x0 x1) := ⟨h.cfg, h.fed⟩

theorem State.mdProc_buffersFed (s : State) (m : Fin 24) (x : List NUM) : BuffersFed s (s.mdProc m x) :=
  .of_set (rbOfMd m) x rfl (s.mdProc_rb m x)

theorem State.apProc_buffersFed (s : State) (a : Fin 20) (x : List NUM) : BuffersFed s (s.apProc a x) :=
  .of_set _ _ rfl (by rw [State.apProc_rb, apRun, apLoop_buf])

theorem State.rvBlock_buffersFed (s : State) (stage : Fin 12) (l r : List NUM) : BuffersFed s (s.rvBlock stage l r) :=
  State.rvBlock_induction (P := BuffersFed s) (fun _ _ h => h.trans (.of_eq rfl rfl))
    (fun _ _ _ h => h.trans (.of_eq rfl rfl)) (fun _ a x h => h.trans (State.apProc_buffersFed _ a x))
    (fun _ m x h => h.trans (State.mdProc_buffersFed _ m x)) (.refl s) stage l r

/-- Every operation changes the ring buffers only by feeding them samples. -/
theorem Executed.buffersFed {s t : State} {i : Instr} (h : Executed s i t) : BuffersFed s t := by
  have owned (i : Instr) : BuffersFed s (s.engineOwned i) := .of_eq (s.engineOwned_cfg i) (by rw [State.engineOwned_blk])
  cases h with
  | rbWrite r => exact .of_set r [s.args.a0] (by simp) (by simp)
  | mdProc m x => exact ((owned _).trans (State.mdProc_buffersFed _ m x)).answer _ _ _
  | apProc a x => exact ((owned _).trans (State.apProc_buffersFed _ a x)).answer _ _ _
  | rvProc stage x => 
    obtain ⟨cfg, fed⟩ := s.rvBlock_buffersFed stage x.1 x.2
    exact ⟨cfg, fed⟩
  | gpProc x => exact .of_set 24 x rfl (s.gpProc_rb x)
  | _ => exact .of_eq (by simp [State.mdSetParams]) (by simp [State.mdSetParams])

/-! ## What that leaves invariant -/

theorem BuffersFed.wc_le {s t : State} (h : BuffersFed s t) (r : Fin 25) : s.blk.rb[r].wc ≤ t.blk.rb[r].wc := by
  obtain ⟨x, hx⟩ := h.fed r
  rw [hx, rbWrite_foldl_wc]
  exact Nat.le_add_right _ _

theorem BuffersFed.memoryCanonical {s t : State} (h : BuffersFed s t) (hs : s.memoryCanonical) : t.memoryCanonical := by
  obtain ⟨hcap, hwf⟩ := hs
  refine ⟨fun r => h.cfg ▸ hcap r, fun r => ?_⟩
  obtain ⟨x, hx⟩ := h.fed r
  rw [hx, h.cfg]
  exact rbWrite_foldl_wf x (hcap r) (hwf r)

end Sys2Proof.Machine

namespace Sys2Proof.Claims

open Sys2Proof.Machine

/-- Settles O11: a buffer that is fed samples has its cursor advanced by their number. -/
theorem cursorsNeverDecrease : Obligations.CursorsNeverDecrease := by
  unfold Obligations.CursorsNeverDecrease
  exact fun i s t h r => (executed_of_exec h).buffersFed.wc_le r

/-- Settles O51: feeding a buffer keeps its storage canonical, and a step does nothing else to a storage. -/
theorem stepKeepsMemoryCanonical : Obligations.StepKeepsMemoryCanonical := by
  unfold Obligations.StepKeepsMemoryCanonical
  intro s t hs hstep
  obtain rfl | ⟨p, rest, i, hexecuted⟩ := step_cases hstep
  · exact hs
  · exact hexecuted.buffersFed.memoryCanonical (s := s.take p rest) hs

end Sys2Proof.Claims

/-! The shape of the state (10_state.md section 2, 45_granular.md section 3): one rule for each register write, then the unit
operations, the steps of RV.PROC and every operation. -/

namespace Sys2Proof.Machine

open Sys2Proof.Claims

section
variable {s : State}

/-! ## Register writes -/

theorem State.shape.log (h : s.shape) (vs : List Viol) : (s.log vs).shape :=
  ⟨h.mdOut, h.apOut, h.prev, h.mono, h.tankIn, h.grains, h.answers⟩

theorem State.shape.engineOwned (h : s.shape) (i : Instr) : (s.engineOwned i).shape := by
  rw [State.engineOwned_eq]; exact h.log _

theorem State.shape.bufferOwned (h : s.shape) (r : Fin 25) (i : Instr) : (s.bufferOwned r i).shape := by
  rw [State.bufferOwned_eq]; exact h.log _

theorem State.shape.setRb (h : s.shape) (r : Fin 25) (b : RingBuf) : (s.setRb r b).shape :=
  ⟨h.mdOut, h.apOut, h.prev, h.mono, h.tankIn, h.grains, h.answers⟩

theorem State.shape.setBq (h : s.shape) (q : Fin 4) (f : Biquad) : (s.setBq q f).shape :=
  ⟨h.mdOut, h.apOut, h.prev, h.mono, h.tankIn, h.grains, h.answers⟩

theorem State.shape.setMd (h : s.shape) (m : Fin 24) {d : ModDelay} (hd : d.out.length = s.cfg.blockSize) :
    (s.setMd m d).shape := by
  refine ⟨fun k => ?_, h.apOut, h.prev, h.mono, h.tankIn, h.grains, h.answers⟩
  rw [State.setMd_md, getElem_fin_set]
  split
  · exact hd
  · exact h.mdOut k

theorem State.shape.setAp (h : s.shape) (a : Fin 20) {d : Allpass} (hd : d.out.length = s.cfg.blockSize) :
    (s.setAp a d).shape := by
  refine ⟨h.mdOut, fun k => ?_, h.prev, h.mono, h.tankIn, h.grains, h.answers⟩
  rw [State.setAp_ap, getElem_fin_set]
  split
  · exact hd
  · exact h.apOut k

theorem State.shape.setGp (h : s.shape) {g : Shifter} (hg : g.grains.length = s.cfg.numGrains) : (s.setGp g).shape :=
  ⟨h.mdOut, h.apOut, h.prev, h.mono, h.tankIn, hg, h.answers⟩

/-- A write of the engine's registers keeps the shape when its buffers have `B` samples. -/
theorem State.shape.setRv (h : s.shape) {e : Engine} (hprev : ∀ i : Fin 4, e.prev[i].length = s.cfg.blockSize)
    (hmono : e.mono.length = s.cfg.blockSize) (htank : e.tankIn.length = s.cfg.blockSize) : (s.setRv e).shape :=
  ⟨h.mdOut, h.apOut, hprev, hmono, htank, h.grains, h.answers⟩

/-- A response has two blocks of `B` samples when no more than `B` were produced for each (30_encoding.md R93). -/
theorem State.shape.answer (h : s.shape) {r0 : Option NUM} {x0 x1 : List NUM} (h0 : x0.length ≤ s.cfg.blockSize)
    (h1 : x1.length ≤ s.cfg.blockSize) : (s.answer r0 x0 x1).shape := by
  refine ⟨h.mdOut, h.apOut, h.prev, h.mono, h.tankIn, h.grains, fun a ha => ?_⟩
  rw [State.answer_outbox, List.mem_append, List.mem_singleton] at ha
  obtain ha | rfl := ha
  · exact h.answers a ha
  · exact ⟨fillBlock_length h0, fillBlock_length h1⟩

theorem State.shape.done (h : s.shape) : s.done.shape := h.answer (Nat.zero_le _) (Nat.zero_le _)

theorem State.shape.refuse (h : s.shape) (v : Viol) : (s.refuse v).shape := (h.log [v]).done

theorem State.shape.updateAll (h : s.shape) : s.updateAll.shape := by
  refine ⟨fun m => ?_, fun a => ?_, ?_, ?_, ?_, ?_, ?_⟩
  · simpa [updatedDelay] using h.mdOut m
  · simpa using h.apOut a
  · simpa [updatedEngine] using h.prev
  · simpa [updatedEngine] using h.mono
  · simpa [updatedEngine] using h.tankIn
  · simpa using h.grains
  · simpa using h.answers

/-! ## Unit operations on a block of at most `B` samples -/

section
variable {x : List NUM}

theorem State.shape.mdProc (h : s.shape) (m : Fin 24) (hx : x.length ≤ s.cfg.blockSize) : (s.mdProc m x).shape := by
  refine ((h.setRb _ _).setMd m ?_).log _
  dsimp only
  have htaps : x.length ≤ s.blk.md[m].out.length := by rwa [h.mdOut m]
  rw [ModDelay.advance_out, overwrite_length (by simpa using htaps)]
  exact h.mdOut m

theorem State.shape.apProc (h : s.shape) (a : Fin 20) (hx : x.length ≤ s.cfg.blockSize) : (s.apProc a x).shape := by
  refine ((((h.setRb _ _).setMd _ ?_).setAp a ?_)).log _
  · rw [ModDelay.advance_out, h.mdOut]; rfl
  · dsimp only
    have hout : x.length ≤ s.blk.ap[a].out.length := by rwa [h.apOut a]
    rw [overwrite_length (by simpa using hout)]
    exact h.apOut a

theorem State.shape.bqProc (h : s.shape) (q : Fin 4) (x : List NUM) : (s.bqProc q x).1.shape := (h.log _).setBq q _

theorem State.shape.gpProc (h : s.shape) (x : List NUM) : (s.gpProc x).1.shape := by
  refine ((h.setRb _ _).setGp ?_).log _
  rw [poolLoop_grains_length, h.grains]
  rfl

end

/-! ## RV.PROC -/

/-- The last of a series of allpasses, or any other: all have output buffers of `B` samples, so the series keeps the shape. -/
theorem State.shape.chain (h : s.shape) (as : List (Fin 20)) {c : List NUM} (hc : c.length ≤ s.cfg.blockSize) :
    (s.chain as c).shape := by
  induction as generalizing s c with
  | nil => exact h
  | cons a rest ih =>
    have ha := h.apProc a hc
    exact ih ha (ha.apOut a).le

theorem State.shape.smoothFreeze (h : s.shape) : s.smoothFreeze.shape := h.setRv h.prev h.mono h.tankIn

theorem State.shape.preFilter (h : s.shape) {l r : List NUM} (hl : l.length = s.cfg.blockSize)
    (hr : r.length = s.cfg.blockSize) : (s.preFilter l r).shape := by
  have hb := (h.bqProc 0 (List.zipWith .add l r)).bqProc 1 (s.bqProc 0 (List.zipWith .add l r)).2
  exact hb.setRv hb.prev (by simp [hl, hr]) hb.tankIn

theorem State.shape.tapTank (h : s.shape) (stage : Fin 12) : (s.tapTank stage).shape := by
  refine h.setRv h.prev h.mono ?_
  dsimp only
  rw [List.length_map]
  exact h.apOut ⟨stage, by omega⟩

theorem State.shape.snapshot (h : s.shape) : s.snapshot.shape := by
  refine h.setRv (fun i => ?_) h.mono h.tankIn
  simpa using h.mdOut ⟨i, by omega⟩

/-- The input of a lane has `B` samples. -/
theorem State.shape.laneInput_length (h : s.shape) (i : Fin 4) : (laneInput s i).length = s.cfg.blockSize := by
  have hprev := h.prev ⟨(i.val + 3) % 4, by omega⟩
  simp only [Fin.getElem_fin] at hprev
  simp [laneInput, h.tankIn, hprev]

theorem State.shape.postFilter (h : s.shape) (x : List NUM) : (s.postFilter x).1.shape := (h.bqProc 2 x).bqProc 3 _

theorem State.postFilter_length (s : State) (x : List NUM) : (s.postFilter x).2.length = x.length := by
  simp [State.postFilter]

theorem State.shape.lane (h : s.shape) (i : Fin 4) : (s.lane i).shape := by
  have hx := (h.laneInput_length i).le
  unfold State.lane
  dsimp only
  split
  · have hd := (h.postFilter (laneInput s i)).chain [laneDiffuser i 0, laneDiffuser i 1]
      (c := (s.postFilter (laneInput s i)).2)
      (by rw [State.postFilter_length]; exact hx)
    exact hd.mdProc (laneDelay i) (hd.apOut (laneDiffuser i 1)).le
  · have hd := h.chain [laneDiffuser i 0, laneDiffuser i 1] hx
    exact hd.mdProc (laneDelay i) (hd.apOut (laneDiffuser i 1)).le

theorem State.shape.rvBlock (h : s.shape) (stage : Fin 12) {l r : List NUM} (hl : l.length = s.cfg.blockSize)
    (hr : r.length = s.cfg.blockSize) : (s.rvBlock stage l r).shape := by
  have hpre := h.smoothFreeze.preFilter hl hr
  exact (((((hpre.chain preStages hpre.mono.le).tapTank stage).snapshot.lane 0).lane 1).lane 2).lane 3

theorem outputMix_length_le (e : Engine) (a b x : List NUM) : (outputMix e a b x).length ≤ x.length := by
  simp [outputMix]

theorem State.shape.rvFinish (h : s.shape) {x : List NUM × List NUM} (hl : x.1.length ≤ s.cfg.blockSize)
    (hr : x.2.length ≤ s.cfg.blockSize) : (s.rvFinish x).shape := by
  have hran : ({ s with rvRan := true } : State).shape :=
    ⟨h.mdOut, h.apOut, h.prev, h.mono, h.tankIn, h.grains, h.answers⟩
  exact hran.answer ((outputMix_length_le _ _ _ _).trans hl) ((outputMix_length_le _ _ _ _).trans hr)

theorem stereoOperand_length {i : Instr} {x : List NUM × List NUM} (h : stereoOperand i s = .ok x) :
    x.1.length = s.cfg.blockSize ∧ x.2.length = s.cfg.blockSize := by
  obtain ⟨-, hl, hr, rfl⟩ := (stereoOperand_eq_ok s).1 h
  simp [hl, hr]

/-! ## Every operation -/

theorem Executed.shape {i : Instr} {t : State} (h : Executed s i t) (hs : s.shape) : t.shape := by
  cases h with
  | refused i v => exact hs.refuse v
  | rbWrite r => exact ((hs.bufferOwned r _).setRb r _).done
  | rbRead r => exact (hs.log _).answer (Nat.zero_le _) (Nat.zero_le _)
  | mdSetp m len => exact ((hs.engineOwned _).setMd m (by simpa using hs.mdOut m)).done
  | mdProc m x hx => exact ((hs.engineOwned _).mdProc m (by simpa using blockOperand_length s hx)).done
  | mdGeto m => exact hs.answer (hs.mdOut m).le (Nat.zero_le _)
  | apSetp a len => exact ((hs.engineOwned _).setMd (mdOfAp a) (by simpa using hs.mdOut (mdOfAp a))).done
  | apSetfb a => exact (((hs.engineOwned _).setAp a (by simpa using hs.apOut a)).log _).done
  | apProc a x hx => exact ((hs.engineOwned _).apProc a (by simpa using blockOperand_length s hx)).done
  | apGeto a => exact hs.answer (hs.apOut a).le (Nat.zero_le _)
  | bqSettype q ty => exact ((hs.engineOwned _).setBq q _).done
  | bqSetfreq q => exact ((hs.engineOwned _).setBq q _).done
  | bqSetfs q => exact ((hs.engineOwned _).setBq q _).done
  | bqUpdate q => exact ((hs.engineOwned _).setBq q _).done
  | bqProc q x hx =>
    exact ((hs.engineOwned _).bqProc q x).answer (by simpa using blockOperand_length s hx) (Nat.zero_le _)
  | rvSetparam id => exact (State.shape.updateAll (s := s.setParam id s.args.a0) (hs.setRv hs.prev hs.mono hs.tankIn)).done
  | rvUpdateall => exact hs.updateAll.done
  | rvProc stage x hx =>
    obtain ⟨hl, hr⟩ := stereoOperand_length hx
    have hcfg := (s.rvBlock_buffersFed stage x.1 x.2).cfg
    exact (hs.rvBlock stage hl hr).rvFinish (by rw [hcfg, hl]) (by rw [hcfg, hr])
  | gpSetspeed => exact ((hs.setGp (g := { s.blk.gp with speed := s.args.a0 }) hs.grains).log _).done
  | gpSeed k => exact (hs.setGp (g := { s.blk.gp with rng := ⟨k, 0⟩ }) hs.grains).done
  | gpProc x hx =>
    obtain ⟨mdOut, apOut, prev, mono, tankIn, grains, answers⟩ := hs.gpProc x
    have hran : ({ (s.gpProc x).1 with gpRan := true } : State).shape :=
      ⟨mdOut, apOut, prev, mono, tankIn, grains, answers⟩
    exact hran.answer (by simpa using blockOperand_length s hx) (Nat.zero_le _)

end

end Sys2Proof.Machine

namespace Sys2Proof.Claims

open Sys2Proof.Machine

/-- Settles O52: every way an operation can end keeps the shape, given that block operands have at most `B` samples. -/
theorem stepKeepsTheShape : Obligations.StepKeepsTheShape := by
  unfold Obligations.StepKeepsTheShape
  intro s t hs hstep
  obtain rfl | ⟨p, rest, i, hexecuted⟩ := step_cases hstep
  · exact hs
  · exact hexecuted.shape ⟨hs.mdOut, hs.apOut, hs.prev, hs.mono, hs.tankIn, hs.grains, hs.answers⟩

end Sys2Proof.Claims

/-! The loop gain of 44_reverb_engine.md section 3 (R155, R169) as a real number. -/

namespace Sys2Proof.Machine

/-- The decay time `max(Decay, 0.1)` is positive. -/
theorem decayTime_pos (decay : ℝ) : 0 < max decay (1 / 10) := lt_max_of_lt_right (by norm_num)

/-- `Krt` for a SizeLate in its defined domain (44_reverb_engine.md R169). -/
theorem val_loopGain {decay size : NUM} (h : 0 ≤ size.val) : (loopGain decay size).val =
    (10 : ℝ) ^ (-3 * (15 / 100 * √size.val) / max decay.val (1 / 10)) := by
  simp only [loopGain, NUM.val_pow10, NUM.val_div, NUM.val_mul, NUM.val_rat, NUM.val_greater, NUM.val_sqrt h]
  norm_num

theorem loopGain_exponent_nonpos (decay size : ℝ) : -3 * (15 / 100 * √size) / max decay (1 / 10) ≤ 0 :=
  div_nonpos_of_nonpos_of_nonneg (by have := Real.sqrt_nonneg size; linarith) (decayTime_pos decay).le

theorem loopGain_pos {decay size : NUM} (h : 0 ≤ size.val) : 0 < (loopGain decay size).val := by
  rw [val_loopGain h]
  exact Real.rpow_pos_of_pos (by norm_num) _

theorem loopGain_le_one {decay size : NUM} (h : 0 ≤ size.val) : (loopGain decay size).val ≤ 1 := by
  rw [val_loopGain h]
  exact Real.rpow_le_one_of_one_le_of_nonpos (by norm_num) (loopGain_exponent_nonpos _ _)

/-- A real exponent `-3/k`, taken `k` times, is a thousandth: −60 dB. -/
theorem ten_rpow_pow_eq_thousandth {e : ℝ} {k : Nat} (h : e * k = -3) : ((10 : ℝ) ^ e) ^ k = 1 / 1000 := by
  rw [← Real.rpow_natCast, ← Real.rpow_mul (by norm_num), h, show (-3 : ℝ) = ((-3 : ℤ) : ℝ) by norm_num, Real.rpow_intCast]
  norm_num

end Sys2Proof.Machine

namespace Sys2Proof.Claims

open Sys2Proof.Machine

/-- Settles O36: every clause is about the one exponent `-3·rt/T60`. -/
theorem loopGainLaw : Obligations.LoopGainLaw := by
  unfold Obligations.LoopGainLaw
  intro decay size hsize rt t60 krt
  have ht60 : 0 < t60 := decayTime_pos decay.val
  have hkrt : krt = (10 : ℝ) ^ (-3 * rt / t60) := val_loopGain hsize
  refine ⟨hkrt, ?source, loopGain_pos hsize, loopGain_le_one hsize, ?below, ?one, ?rounds, ?tenth⟩
  case source =>
    intro hrt
    have hexp : -60 / (t60 / rt) / 20 = -3 * rt / t60 := by field_simp; norm_num
    rw [hkrt, hexp]
  case below =>
    intro hpos
    have hrt : 0 < rt := mul_pos (by norm_num) (Real.sqrt_pos.2 hpos)
    rw [hkrt]
    exact Real.rpow_lt_one_of_one_lt_of_neg (by norm_num) (div_neg_of_neg_of_pos (by linarith) ht60)
  case one =>
    intro hzero
    have hrt : rt = 0 := by simp [rt, hzero]
    rw [hkrt, hrt, mul_zero, zero_div, Real.rpow_zero]
  case rounds =>
    intro k hk
    have hexp : -3 * rt / t60 * k = -3 := by
      rw [div_mul_eq_mul_div, mul_assoc, mul_comm rt, hk, mul_div_cancel_right₀ _ ht60.ne']
    rw [hkrt, ten_rpow_pow_eq_thousandth hexp]
  case tenth =>
    intro hdecay hone
    have hexp : -3 * rt / t60 = -1 := by simp only [rt, t60, hdecay, hone, Real.sqrt_one]; norm_num
    rw [hkrt, hexp, Real.rpow_neg_one, one_div]

end Sys2Proof.Claims

/-! RV.SETPARAM and RV.UPDATEALL (44_reverb_engine.md sections 2 and 3): the domain of each parameter, and the mapping from the
thirteen parameters to everything that is derived from them. -/

namespace Sys2Proof.Machine

open Sys2Proof.Claims

/-! ## The domains -/

theorem isSome_stageOperand_iff (v : NUM) :
    (stageOperand v).isSome = true ↔ ∃ n : Nat, 1 ≤ n ∧ n ≤ 12 ∧ v.val = n := by
  simp only [Option.isSome_iff_exists, stageOperand_eq_some]
  constructor
  · rintro ⟨k, hk⟩
    exact ⟨k.val + 1, by omega, by omega, hk⟩
  · rintro ⟨n, h1, h12, hn⟩
    exact ⟨⟨n - 1, by omega⟩, by rw [hn]; congr 1; dsimp only; omega⟩

/-- The machine's domain check is the table of 44_reverb_engine.md R154. -/
theorem inDomain_iff (id : ParamId) (v : NUM) : inDomain id v = true ↔ definedDomain id v := by
  cases id
  case sizeEarly | sizeLate => simp [inDomain, definedDomain]
  case earlyStages => exact isSome_stageOperand_iff v
  all_goals exact iff_of_true rfl trivial

/-! ## RV.SETPARAM -/

section
variable (s : State)

/-- The number of a parameter is its place in the list of the thirteen (30_encoding.md R85). -/
theorem allParams_getElem_idx (id : ParamId) : allParams[id.idx.val]? = some id := by cases id <;> rfl

theorem ParamId.idx_injective : Function.Injective ParamId.idx := fun a b h =>
  Option.some.inj ((allParams_getElem_idx a).symm.trans (h ▸ allParams_getElem_idx b))

theorem State.setParam_param_ne {id k : ParamId} (v : NUM) (h : k ≠ id) : (s.setParam id v).param k = s.param k := by
  have hidx : k.idx ≠ id.idx := fun e => h (ParamId.idx_injective e)
  rw [State.param, State.setParam_p, getElem_fin_set_ne hidx, State.param]

theorem exec_setparamInstr_of_inDomain {id : ParamId} (h : inDomain id s.args.a0 = true) :
    exec (Packet.setparamInstr id) s = .next (s.setParam id s.args.a0).updateAll.done := by
  rw [exec_setparamInstr, State.rvSetparam_of_inDomain s h]

theorem exec_setparamInstr_of_not_inDomain {id : ParamId} (h : ¬ inDomain id s.args.a0 = true) :
    exec (Packet.setparamInstr id) s = .next (s.refuse (.operand (Packet.setparamInstr id) .a0 s.args.a0)) := by
  rw [exec_setparamInstr, State.rvSetparam, if_neg h]

theorem sameOwners_done {s t : State} (h : sameOwners s t) : sameOwners s t.done := ⟨h.1, h.2⟩

theorem State.updateAll_sameOwners : sameOwners s s.updateAll := ⟨s.updateAll_rvRan, s.updateAll_gpRan⟩

theorem State.setParam_updateAll_keepsHost (id : ParamId) (v : NUM) : KeepsHost s (s.setParam id v).updateAll :=
  KeepsHost.updateAll (t := s.setParam id v) ((KeepsHost.refl s).setRv _)

/-! ## What UpdateAll derives -/

/-- The record of a coefficient outside [0,1), in the reals. -/
theorem fbViol_eq (a : Fin 20) (g : NUM) : fbViol a g = if g.val < 0 ∨ 1 ≤ g.val then [.apFb a g] else [] := by
  by_cases h : 0 ≤ g.val ∧ g.val < 1
  · have hout : ¬ (g.val < 0 ∨ 1 ≤ g.val) := by rintro (hg | hg) <;> linarith [h.1, h.2]
    simp [fbViol, h, hout]
  · have hout : g.val < 0 ∨ 1 ≤ g.val := by rwa [not_and_or, not_le, not_lt] at h
    have hin : ¬ ((NUM.rat 0).le g && g.lt (.rat 1)) = true := by simpa [NUM.le_iff, NUM.lt_iff] using h
    rw [fbViol, if_neg hin, if_pos hout]

theorem val_clip_unit (v : NUM) : (clip v (.rat 0) (.rat 1)).val = max 0 (min 1 v.val) := by
  simp only [val_clip, NUM.val_rat, Rat.cast_zero, Rat.cast_one]
  split_ifs with h0 h1
  · rw [min_eq_right (by linarith), max_eq_left h0.le]
  · rw [min_eq_left h1.le, max_eq_right zero_le_one]
  · rw [min_eq_right (not_lt.1 h1), max_eq_right (not_lt.1 h0)]

/-- UpdateAll sets the four parameter fields of every delay, and nothing else of it (44_reverb_engine.md R168). -/
theorem updatedDelay_delaySet (m : Fin 24) : DelaySet s.blk.md[m] (updatedDelay s m)
    (scaledLength s.cfg (s.param .sizeEarly) (s.param .sizeLate) m).val (stageRate s.cfg m)
    ((s.param .modulate).val * (stageDepth m).val) (s.param .interpolation) := by
  refine ⟨?_, NUM.val_mul _ _⟩
  simp only [updatedDelay, ModDelay.setParams, NUM.floor_eq, booleanOperand_eq]

theorem State.updateAll_md_get (m : Fin 24) : s.updateAll.blk.md[m] = updatedDelay s m := by simp

theorem State.updateAll_preDelay (j : Fin 12) : DelaySet s.blk.md[4 + j.val] s.updateAll.blk.md[4 + j.val]
    (s.cfg.preLen[j].val * (s.param .sizeEarly).val) s.cfg.preRate[j] ((s.param .modulate).val * 25)
    (s.param .interpolation) := by
  have h := updatedDelay_delaySet s ⟨4 + j.val, by omega⟩
  rw [← State.updateAll_md_get] at h
  simpa [scaledLength, stageRate, stageDepth, modBase, show 4 + j.val < 16 by omega] using h

theorem State.updateAll_tankDiffuserDelay (j : Fin 8) : DelaySet s.blk.md[16 + j.val] s.updateAll.blk.md[16 + j.val]
    (s.cfg.tankApLen[j].val * (1 / 5 + (s.param .sizeLate).val * (4 / 5))) s.cfg.tankApRate[j]
    ((s.param .modulate).val * 25) (s.param .interpolation) := by
  have h := updatedDelay_delaySet s ⟨16 + j.val, by omega⟩
  rw [← State.updateAll_md_get] at h
  simpa [scaledLength, stageRate, stageDepth, modBase, show ¬ 16 + j.val < 4 by omega] using h

theorem stageDepth_val (m : Fin 24) : (stageDepth m).val = if m.val = 0 then 200 else 25 := by
  unfold stageDepth
  split <;> simp [modFirst, modBase]

theorem State.updateAll_tankDelay (j : Fin 4) : DelaySet s.blk.md[j.val] s.updateAll.blk.md[j.val]
    (s.cfg.tankDlyLen[j].val * (s.param .sizeLate).val) s.cfg.tankDlyRate[j]
    ((s.param .modulate).val * (if j = 0 then 200 else 25)) (s.param .interpolation) := by
  have h := updatedDelay_delaySet s ⟨j.val, by omega⟩
  rw [← State.updateAll_md_get] at h
  have hdepth : (stageDepth ⟨j.val, by omega⟩).val = if j = 0 then 200 else 25 := by simp only [stageDepth_val, Fin.val_eq_zero_iff]
  rw [hdepth] at h
  simpa [scaledLength, stageRate] using h

theorem State.updateAll_pre_ap (j : Fin 12) :
    s.updateAll.blk.ap[j.val] = { s.blk.ap[j.val] with fb := s.cfg.preFb[j] } := by
  simp [s.updateAll_ap ⟨j.val, by omega⟩, stageFeedback]

theorem State.updateAll_tank_ap (j : Fin 8) :
    s.updateAll.blk.ap[12 + j.val] = { s.blk.ap[12 + j.val] with fb := s.updateAll.blk.rv.tankFb } := by
  simp [s.updateAll_ap ⟨12 + j.val, by omega⟩, stageFeedback, updatedEngine]

/-- The filters in the order of 44_reverb_engine.md R170. -/
theorem cutParam_eq (q : Fin 4) :
    cutParam q = (#v[.highCutPre, .lowCutPre, .highCutPost, .lowCutPost] : Vector ParamId 4)[q] := by
  fin_cases q <;> rfl

/-! ## UpdateAll again -/

theorem State.updateAll_blk : s.updateAll.blk = { s.blk with
    md := Vector.ofFn (updatedDelay s)
    ap := Vector.ofFn fun a : Fin 20 =>
      { s.blk.ap[a] with fb := stageFeedback s.cfg (tankFeedback (s.param .diffuse)) a }
    bq := Vector.ofFn fun q : Fin 4 => ({ s.blk.bq[q] with freq := s.param (cutParam q) } : Biquad).update s.cfg.design
    rv := updatedEngine s } := by
  simp only [State.updateAll]

theorem State.done_updateAll_blk : s.done.updateAll.blk = s.updateAll.blk := by
  rw [State.updateAll_blk, State.updateAll_blk]
  rfl

/-- What UpdateAll writes depends on the parameters only, which it keeps, and on what it does not write. -/
theorem State.updateAll_updateAll_blk : s.updateAll.updateAll.blk = s.updateAll.blk := by
  have hmd (m : Fin 24) : updatedDelay s.updateAll m = updatedDelay s m := by
    simp [updatedDelay, ModDelay.setParams]
  have hrv : updatedEngine s.updateAll = updatedEngine s := by simp [updatedEngine]
  rw [State.updateAll_blk s.updateAll, funext hmd, hrv, State.updateAll_blk s]
  simp [Biquad.update]

end

end Sys2Proof.Machine

namespace Sys2Proof.Claims

open Sys2Proof.Machine

/-- Settles O31: in its domain the value is written and UpdateAll runs on that very state; outside it the packet is refused. -/
theorem setparamStoresThenUpdatesAll : Obligations.SetparamStoresThenUpdatesAll := by
  unfold Obligations.SetparamStoresThenUpdatesAll
  intro s id
  rw [← inDomain_iff]
  refine ⟨fun h => ?inside, fun h => ⟨_, exec_setparamInstr_of_not_inDomain s h, s.refuse_refused _⟩⟩
  refine ⟨_, _, exec_setparamInstr_of_inDomain s h, exec_rvUpdateall (s.setParam id s.args.a0), rfl, rfl, ?own, ?others,
    sameOwners_done ((s.setParam id s.args.a0).updateAll_sameOwners), (s.setParam_updateAll_keepsHost id _).done⟩
  case own => rw [State.done_param, State.updateAll_param, State.setParam_param]
  case others =>
    intro k hk
    rw [State.done_param, State.updateAll_param, s.setParam_param_ne _ hk]

/-- Settles O32: the mapping register by register. -/
theorem updateAllMapsTheParameters : Obligations.UpdateAllMapsTheParameters := by
  unfold Obligations.UpdateAllMapsTheParameters
  intro s
  refine ⟨_, exec_rvUpdateall s, ?_⟩
  simp only [State.done_blk, State.done_viol]
  refine ⟨?engine, ?krt, ?tankFb, ?wet, ?dry, s.updateAll_preDelay, s.updateAll_tankDiffuserDelay,
    s.updateAll_tankDelay, s.updateAll_pre_ap, s.updateAll_tank_ap, ?filters, s.updateAll_rb, s.updateAll_gp,
    sameOwners_done s.updateAll_sameOwners, ?records, ((KeepsHost.refl s).updateAll).done⟩
  case engine => simp [updatedEngine]
  case krt =>
    intro h
    rw [State.updateAll_rv]
    exact val_loopGain h
  case tankFb => rw [State.updateAll_tankFb, val_tankFeedback]
  case wet =>
    rw [State.updateAll_wet, wetGain, val_clip_unit]
    simp
  case dry =>
    rw [State.updateAll_dry, dryGain, val_clip_unit]
    simp
  case filters =>
    intro q
    rw [← cutParam_eq]
    exact s.updateAll_bq q
  case records =>
    rw [State.updateAll_viol]
    simp [fbViol_eq]

/-- Settles O33: the end of the first leaves the block as it is, and UpdateAll twice is UpdateAll once. -/
theorem updateAllIsIdempotent : Obligations.UpdateAllIsIdempotent := by
  unfold Obligations.UpdateAllIsIdempotent
  intro s t u ht hu
  obtain rfl := Host.Outcome.next.inj ((exec_rvUpdateall s).symm.trans ht)
  obtain rfl := Host.Outcome.next.inj ((exec_rvUpdateall _).symm.trans hu)
  rw [State.done_blk, State.done_updateAll_blk, State.updateAll_updateAll_blk, State.done_blk]

end Sys2Proof.Claims

/-! The ranges of the registers (10_state.md sections 2 and 3, 44_reverb_engine.md section 2). The invariant splits into that of the
units (delays, filters, grains), which RV.PROC keeps as a run of unit operations, and that of the engine's own registers. -/

namespace Sys2Proof.Machine

open Sys2Proof.Claims

/-! ## The two halves of the invariant -/

/-- A delay with its length and phase in their ranges (10_state.md R23). -/
structure ModDelay.inRange (d : ModDelay) : Prop where
  delay : 0 ≤ d.delaySamples
  phase : 0 ≤ d.phase.val ∧ d.phase.val < 1

/-- A grain that plays and has a length (10_state.md R26). -/
def Grain.inRange (g : Grain) : Prop := 0 < g.len.val ∧ g.active = true

/-- The ranges of delays, filters and grains (10_state.md R23, R25, R26). -/
structure UnitsInRange (s : State) : Prop where
  delays : ∀ m : Fin 24, s.blk.md[m].inRange
  rates : ∀ q : Fin 4, 0 < s.blk.bq[q].fs.val
  grains : ∀ g ∈ s.blk.gp.grains, g.inRange

/-- The ranges of the engine's registers (10_state.md R28, R29). -/
structure Engine.inRange (e : Engine) : Prop where
  sizeEarly : 0 ≤ e.p[ParamId.sizeEarly.idx].val
  sizeLate : 0 ≤ e.p[ParamId.sizeLate.idx].val
  stages : e.p[ParamId.earlyStages.idx].val = 0 ∨ (stageOperand e.p[ParamId.earlyStages.idx]).isSome = true
  loopGain : 0 ≤ e.krt.val ∧ e.krt.val ≤ 1
  wet : 0 ≤ e.wet.val ∧ e.wet.val ≤ 1
  dry : 0 ≤ e.dry.val ∧ e.dry.val ≤ 1
  freeze : 0 ≤ e.smoothedFreeze.val ∧ e.smoothedFreeze.val ≤ 1
  activeGain : 0 ≤ e.activeKrt.val ∧ e.activeKrt.val ≤ 1

theorem State.ranges_iff (s : State) : s.ranges ↔ s.cfg.valid = true ∧ UnitsInRange s ∧ s.blk.rv.inRange := by
  constructor
  · intro h
    exact ⟨h.cfg, ⟨fun m => ⟨h.delay m, h.phase m⟩, h.rate, h.grains⟩,
      ⟨h.sizes.1, h.sizes.2, h.stages, h.loopGain, h.wet, h.dry, h.freeze, h.activeGain⟩⟩
  · rintro ⟨hcfg, hunits, hengine⟩
    exact
      { cfg := hcfg, delay := fun m => (hunits.delays m).delay, phase := fun m => (hunits.delays m).phase
        rate := hunits.rates, grains := hunits.grains, sizes := ⟨hengine.sizeEarly, hengine.sizeLate⟩
        stages := hengine.stages, loopGain := hengine.loopGain, wet := hengine.wet, dry := hengine.dry
        freeze := hengine.freeze, activeGain := hengine.activeGain }

/-! ## Delays, filters and grains -/

theorem ModDelay.inRange.advance {d : ModDelay} (h : d.inRange) (l : Nat) : (d.advance l).inRange :=
  ⟨h.delay, frac_nonneg _, frac_lt_one _⟩

theorem ModDelay.inRange.setParams {d : ModDelay} (h : d.inRange) {len : Int} (hlen : 0 ≤ len) (rate depth : NUM)
    (interp : Bool) : (d.setParams len rate depth interp).inRange := ⟨hlen, h.phase⟩

section
variable {s : State}

theorem UnitsInRange.of_eq {t : State} (h : UnitsInRange s) (hmd : t.blk.md = s.blk.md) (hbq : t.blk.bq = s.blk.bq)
    (hgp : t.blk.gp.grains = s.blk.gp.grains) : UnitsInRange t :=
  ⟨by rw [hmd]; exact h.delays, by rw [hbq]; exact h.rates, by rw [hgp]; exact h.grains⟩

theorem UnitsInRange.log (h : UnitsInRange s) (vs : List Viol) : UnitsInRange (s.log vs) := h.of_eq rfl rfl rfl

theorem UnitsInRange.setRb (h : UnitsInRange s) (r : Fin 25) (b : RingBuf) : UnitsInRange (s.setRb r b) :=
  h.of_eq rfl rfl rfl

theorem UnitsInRange.setAp (h : UnitsInRange s) (a : Fin 20) (d : Allpass) : UnitsInRange (s.setAp a d) :=
  h.of_eq rfl rfl rfl

theorem UnitsInRange.setGp (h : UnitsInRange s) {g : Shifter} (hg : g.grains = s.blk.gp.grains) :
    UnitsInRange (s.setGp g) := h.of_eq rfl rfl hg

theorem UnitsInRange.engineOwned (h : UnitsInRange s) (i : Instr) : UnitsInRange (s.engineOwned i) :=
  h.of_eq (by rw [State.engineOwned_blk]) (by rw [State.engineOwned_blk]) (by rw [State.engineOwned_blk])

theorem UnitsInRange.setMd (h : UnitsInRange s) (m : Fin 24) {d : ModDelay} (hd : d.inRange) :
    UnitsInRange (s.setMd m d) := by
  refine ⟨fun k => ?_, h.rates, h.grains⟩
  rw [State.setMd_md, getElem_fin_set]
  split
  · exact hd
  · exact h.delays k

theorem UnitsInRange.setBq (h : UnitsInRange s) (q : Fin 4) {f : Biquad} (hf : 0 < f.fs.val) :
    UnitsInRange (s.setBq q f) := by
  refine ⟨h.delays, fun k => ?_, h.grains⟩
  rw [State.setBq_bq, getElem_fin_set]
  split
  · exact hf
  · exact h.rates k

theorem UnitsInRange.mdProc (h : UnitsInRange s) (m : Fin 24) (x : List NUM) : UnitsInRange (s.mdProc m x) := by
  have hd := (h.delays m).advance x.length
  refine UnitsInRange.log (UnitsInRange.setMd (h.setRb _ _) m ?_) _
  exact ⟨hd.delay, hd.phase⟩

theorem UnitsInRange.apProc (h : UnitsInRange s) (a : Fin 20) (x : List NUM) : UnitsInRange (s.apProc a x) :=
  (((h.setRb _ _).setMd (mdOfAp a) ((h.delays (mdOfAp a)).advance x.length)).setAp a _).log _

theorem UnitsInRange.bqProc (h : UnitsInRange s) (q : Fin 4) (x : List NUM) : UnitsInRange (s.bqProc q x).1 := by
  have hfs : 0 < (bqLoop s.blk.bq[q] x).1.fs.val := by rw [bqLoop_fs]; exact h.rates q
  exact (h.log _).setBq q hfs

theorem UnitsInRange.rvBlock (h : UnitsInRange s) (stage : Fin 12) (l r : List NUM) :
    UnitsInRange (s.rvBlock stage l r) :=
  State.rvBlock_induction (P := UnitsInRange) (fun _ _ h => h.of_eq rfl rfl rfl) (fun _ q x h => h.bqProc q x)
    (fun _ a x h => h.apProc a x) (fun _ m x h => h.mdProc m x) h stage l r

/-! ## Grains over a block -/

theorem reseed_inRange {p : Params} (hp : 0 < p.grainLen.val) (speed : NUM) (k0 npr : Nat) (r : Rng) :
    (reseed p speed k0 npr r).1.inRange := by
  obtain ⟨hu, -⟩ := rand_mem p.rng (jitterDraw p r).2
  refine ⟨?_, rfl⟩
  rw [reseed_len_val]
  exact mul_pos hp (by rw [lengthDraw]; linarith)

theorem grainLoop_inRange {p : Params} (hp : 0 < p.grainLen.val) (speed : NUM) (b : RingBuf) (k0 todo n : Nat) {g : Grain}
    (hg : g.inRange) (r : Rng) : (grainLoop p speed b k0 todo n g r).grain.inRange := by
  induction todo generalizing n g r with
  | zero => exact hg
  | succ todo ih =>
    rw [grainLoop]
    dsimp only
    split
    · exact ih _ (reseed_inRange hp _ _ _ _) _
    · exact ih (g := g.advance) _ hg _

theorem poolLoop_inRange {p : Params} (hp : 0 < p.grainLen.val) (speed : NUM) (b : RingBuf) (k0 l : Nat) {gs : List Grain}
    (hgs : ∀ g ∈ gs, g.inRange) (r : Rng) (acc : List NUM) :
    ∀ g ∈ (poolLoop p speed b k0 l gs r acc).grains, g.inRange := by
  induction gs generalizing r acc with
  | nil => exact hgs
  | cons g gs ih =>
    obtain ⟨hg, hrest⟩ := List.forall_mem_cons.1 hgs
    rw [poolLoop]
    exact List.forall_mem_cons.2 ⟨grainLoop_inRange hp _ _ _ _ _ hg _, ih hrest _ _⟩

theorem UnitsInRange.gpProc (h : UnitsInRange s) (hcfg : s.cfg.valid = true) (x : List NUM) :
    UnitsInRange (s.gpProc x).1 := by
  obtain ⟨-, -, -, hlen, -⟩ := valid_numbers hcfg
  exact ⟨h.delays, h.rates, poolLoop_inRange hlen _ _ _ _ h.grains _ _⟩

/-! ## UpdateAll -/

/-- The construction lengths and the sizes are not negative, so no scaled length is (00_scope.md R9, 44_reverb_engine.md R156). -/
theorem scaledLength_nonneg {p : Params} (hp : p.valid = true) {early late : NUM} (he : 0 ≤ early.val) (hl : 0 ≤ late.val)
    (m : Fin 24) : 0 ≤ (scaledLength p early late m).val := by
  obtain ⟨-, -, -, -, -, hlens, -⟩ := valid_numbers hp
  unfold scaledLength
  split_ifs
  · rw [NUM.val_mul]
    exact mul_nonneg (hlens _ (by simp)) hl
  · rw [NUM.val_mul]
    exact mul_nonneg (hlens _ (by simp)) he
  · simp only [NUM.val_mul, NUM.val_add, NUM.val_rat]
    exact mul_nonneg (hlens _ (by simp)) (by push_cast; linarith)

theorem UnitsInRange.updateAll (h : UnitsInRange s) (hcfg : s.cfg.valid = true) (he : s.blk.rv.inRange) :
    UnitsInRange s.updateAll := by
  refine ⟨fun m => ?_, fun q => ?_, ?_⟩
  · rw [State.updateAll_md_get]
    have hlen := scaledLength_nonneg hcfg he.sizeEarly he.sizeLate m
    exact (h.delays m).setParams (by rw [NUM.floor_eq]; exact Int.floor_nonneg.2 hlen) _ _ _
  · simpa using h.rates q
  · simpa using h.grains

theorem Engine.inRange.updated (h : s.blk.rv.inRange) : (updatedEngine s).inRange where
  sizeEarly := h.sizeEarly
  sizeLate := h.sizeLate
  stages := h.stages
  loopGain := ⟨(loopGain_pos h.sizeLate).le, loopGain_le_one h.sizeLate⟩
  wet := by
    have hclip := clip_mem (lo := .rat 0) (hi := .rat 1) (by simp) ((s.param .mix).mul (.rat 2))
    simpa [updatedEngine, wetGain] using hclip
  dry := by
    have hclip := clip_mem (lo := .rat 0) (hi := .rat 1) (by simp) ((NUM.rat 2).sub ((s.param .mix).mul (.rat 2)))
    simpa [updatedEngine, dryGain] using hclip
  freeze := h.freeze
  activeGain := h.activeGain

/-- A parameter stored within its domain keeps the sizes and EarlyStages in theirs (44_reverb_engine.md R154). -/
theorem Engine.inRange.setParam (h : s.blk.rv.inRange) {id : ParamId} {v : NUM} (hv : inDomain id v = true) :
    (s.setParam id v).blk.rv.inRange := by
  have stored (k : ParamId) {P : NUM → Prop} (hown : id = k → P v) (hold : P (s.param k)) :
      P ((s.setParam id v).param k) := by
    by_cases hk : k = id
    · subst hk
      rw [State.setParam_param]
      exact hown rfl
    · rwa [s.setParam_param_ne v hk]
  refine ⟨?_, ?_, ?_, h.loopGain, h.wet, h.dry, h.freeze, h.activeGain⟩
  · exact stored .sizeEarly (P := fun v => 0 ≤ v.val) (fun hid => by subst hid; exact (inDomain_iff _ v).1 hv) h.sizeEarly
  · exact stored .sizeLate (P := fun v => 0 ≤ v.val) (fun hid => by subst hid; exact (inDomain_iff _ v).1 hv) h.sizeLate
  · exact stored .earlyStages (P := fun v => v.val = 0 ∨ (stageOperand v).isSome = true)
      (fun hid => by subst hid; exact .inr hv) h.stages

/-! ## RV.PROC -/

theorem State.smoothFreeze_val : s.smoothFreeze.blk.rv.smoothedFreeze.val = s.blk.rv.smoothedFreeze.val * (95 / 100) +
    (if (s.param .freeze).val ≠ 0 then 1 else 0) * (5 / 100) := by
  simp only [State.smoothFreeze, State.setRv_rv, NUM.val_add, NUM.val_mul, NUM.val_rat, booleanOperand_iff]
  split <;> norm_num

theorem State.smoothFreeze_activeKrt_val : s.smoothFreeze.blk.rv.activeKrt.val =
    s.smoothFreeze.blk.rv.smoothedFreeze.val + (1 - s.smoothFreeze.blk.rv.smoothedFreeze.val) * s.blk.rv.krt.val := by
  simp [State.smoothFreeze]

theorem Engine.inRange.smoothFreeze (h : s.blk.rv.inRange) : s.smoothFreeze.blk.rv.inRange := by
  obtain ⟨hf0, hf1⟩ := h.freeze
  obtain ⟨hk0, hk1⟩ := h.loopGain
  have hsm : 0 ≤ s.smoothFreeze.blk.rv.smoothedFreeze.val ∧ s.smoothFreeze.blk.rv.smoothedFreeze.val ≤ 1 := by
    rw [State.smoothFreeze_val]
    split <;> constructor <;> linarith
  refine ⟨h.sizeEarly, h.sizeLate, h.stages, h.loopGain, h.wet, h.dry, hsm, ?_⟩
  rw [State.smoothFreeze_activeKrt_val]
  constructor <;> nlinarith [hsm.1, hsm.2]

/-- `e'` is `e` but for the engine's buffers: the snapshots, `RV.s` and `RV.tankIn` (10_state.md R30). -/
def Engine.sameButBuffers (e e' : Engine) : Prop := e' = { e with prev := e'.prev, mono := e'.mono, tankIn := e'.tankIn }

theorem Engine.sameButBuffers.trans {e f g : Engine} (h : e.sameButBuffers f) (k : f.sameButBuffers g) :
    e.sameButBuffers g := by
  unfold Engine.sameButBuffers at h k ⊢
  rw [k, h]

/-- RV.PROC up to the tank: the smoother, the pre-filters and the twelve pre-diffusers (44_reverb_engine.md R171). -/
def State.rvDiffused (s : State) (l r : List NUM) : State :=
  (s.smoothFreeze.preFilter l r).chain preStages (s.smoothFreeze.preFilter l r).blk.rv.mono

/-- RV.PROC up to the lanes: the tank input and the snapshots of the lane outputs. -/
def State.rvTapped (s : State) (stage : Fin 12) (l r : List NUM) : State := ((s.rvDiffused l r).tapTank stage).snapshot

theorem State.rvBlock_eq (stage : Fin 12) (l r : List NUM) :
    s.rvBlock stage l r = ((((s.rvTapped stage l r).lane 0).lane 1).lane 2).lane 3 := rfl

theorem State.preFilter_rv (l r : List NUM) : s.blk.rv.sameButBuffers (s.preFilter l r).blk.rv := rfl

theorem State.tapTank_rv (stage : Fin 12) : s.blk.rv.sameButBuffers (s.tapTank stage).blk.rv := rfl

theorem State.snapshot_rv : s.blk.rv.sameButBuffers s.snapshot.blk.rv := rfl

theorem State.rvDiffused_rv (l r : List NUM) : (s.rvDiffused l r).blk.rv = (s.smoothFreeze.preFilter l r).blk.rv := by
  rw [State.rvDiffused, State.chain_rv]

/-- The lanes write none of the engine's registers. -/
theorem State.rvBlock_rv_eq (stage : Fin 12) (l r : List NUM) :
    (s.rvBlock stage l r).blk.rv = (s.rvTapped stage l r).blk.rv := by
  rw [State.rvBlock_eq, State.lane_rv, State.lane_rv, State.lane_rv, State.lane_rv]

/-- The steps of RV.PROC after the smoother write only the engine's buffers among its registers. -/
theorem State.rvBlock_rv (stage : Fin 12) (l r : List NUM) :
    s.smoothFreeze.blk.rv.sameButBuffers (s.rvBlock stage l r).blk.rv := by
  have hpre : s.smoothFreeze.blk.rv.sameButBuffers (s.rvDiffused l r).blk.rv := by
    rw [State.rvDiffused_rv]; exact State.preFilter_rv l r
  rw [State.rvBlock_rv_eq, State.rvTapped]
  exact (hpre.trans (State.tapTank_rv stage)).trans State.snapshot_rv

theorem Engine.inRange.rvBlock (h : s.blk.rv.inRange) (stage : Fin 12) (l r : List NUM) :
    (s.rvBlock stage l r).blk.rv.inRange := by
  have hs := h.smoothFreeze
  rw [show (s.rvBlock stage l r).blk.rv = _ from State.rvBlock_rv stage l r]
  exact ⟨hs.sizeEarly, hs.sizeLate, hs.stages, hs.loopGain, hs.wet, hs.dry, hs.freeze, hs.activeGain⟩

/-! ## Every operation -/

/-- Every operation keeps both halves of the invariant, for a valid construction. -/
theorem Executed.inRange {i : Instr} {t : State} (h : Executed s i t) (hcfg : s.cfg.valid = true)
    (hunits : UnitsInRange s) (hengine : s.blk.rv.inRange) : UnitsInRange t ∧ t.blk.rv.inRange := by
  have ends {u : State} (hu : UnitsInRange u) (he : u.blk.rv.inRange) (r0 : Option NUM) (x0 x1 : List NUM) :
      UnitsInRange (u.answer r0 x0 x1) ∧ (u.answer r0 x0 x1).blk.rv.inRange := ⟨hu.of_eq rfl rfl rfl, he⟩
  have owned (i : Instr) : (s.engineOwned i).blk.rv.inRange := by rwa [State.engineOwned_blk]
  cases h with
  | refused i v => exact ends (hunits.log [v]) hengine _ _ _
  | rbWrite r =>
    rw [State.bufferOwned_eq]
    exact ends ((hunits.log _).setRb r _) hengine _ _ _
  | rbRead r => exact ends (hunits.log _) hengine _ _ _
  | mdSetp m len =>
    have hd := (hunits.engineOwned (.mdSetp m)).delays m
    exact ends ((hunits.engineOwned _).setMd m (hd.setParams (Int.natCast_nonneg len) _ _ _)) (owned _) _ _ _
  | mdProc m x => exact ends ((hunits.engineOwned _).mdProc m x) (owned _) _ _ _
  | mdGeto m => exact ends hunits hengine _ _ _
  | apSetp a len =>
    have hd := (hunits.engineOwned (.apSetp a)).delays (mdOfAp a)
    exact ends ((hunits.engineOwned _).setMd (mdOfAp a) (hd.setParams (Int.natCast_nonneg len) _ _ _)) (owned _) _ _ _
  | apSetfb a => exact ends (((hunits.engineOwned _).setAp a _).log _) (owned _) _ _ _
  | apProc a x => exact ends ((hunits.engineOwned _).apProc a x) (owned _) _ _ _
  | apGeto a => exact ends hunits hengine _ _ _
  | bqSettype q ty => exact ends (.setBq (hunits.engineOwned _) q (by exact hunits.rates q)) (owned _) _ _ _
  | bqSetfreq q => exact ends (.setBq (hunits.engineOwned _) q (by exact hunits.rates q)) (owned _) _ _ _
  | bqSetfs q hfs => exact ends (.setBq (hunits.engineOwned _) q (by exact hfs)) (owned _) _ _ _
  | bqUpdate q => exact ends (.setBq (hunits.engineOwned _) q (by exact hunits.rates q)) (owned _) _ _ _
  | bqProc q x => exact ends ((hunits.engineOwned _).bqProc q x) (owned _) _ _ _
  | rvSetparam id hid =>
    have he := hengine.setParam hid
    have hu : UnitsInRange (s.setParam id s.args.a0) := hunits.of_eq rfl rfl rfl
    exact ends (hu.updateAll hcfg he) (by rw [State.updateAll_rv]; exact he.updated) _ _ _
  | rvUpdateall =>
    exact ends (hunits.updateAll hcfg hengine) (by rw [State.updateAll_rv]; exact hengine.updated) _ _ _
  | rvProc stage x =>
    obtain ⟨hd, hr, hg⟩ := hunits.rvBlock stage x.1 x.2
    have he := hengine.rvBlock stage x.1 x.2
    generalize s.rvBlock stage x.1 x.2 = u at hd hr hg he
    exact ends (u := { u with rvRan := true }) ⟨hd, hr, hg⟩ he _ _ _
  | gpSetspeed => exact ends ((hunits.setGp (g := { s.blk.gp with speed := s.args.a0 }) rfl).log _) hengine _ _ _
  | gpSeed k => exact ends (hunits.setGp (g := { s.blk.gp with rng := ⟨k, 0⟩ }) rfl) hengine _ _ _
  | gpProc x =>
    obtain ⟨hd, hr, hg⟩ := hunits.gpProc hcfg x
    exact ends (u := { (s.gpProc x).1 with gpRan := true }) ⟨hd, hr, hg⟩ hengine _ _ _

end

/-! ## Reset -/

theorem length_silence (p : Params) : (silence p).length = p.blockSize := List.length_replicate

theorem resetWith_memoryCanonical {p : Params} (h : p.valid = true) : (State.resetWith p).memoryCanonical := by
  obtain ⟨-, -, -, -, hcap, -⟩ := valid_numbers h
  exact ⟨fun r => hcap _ (by simp [State.resetWith]), resetWith_memoryCanonical_data p⟩

theorem resetWith_shape (p : Params) : (State.resetWith p).shape where
  mdOut m := by rw [State.resetWith_md]; exact length_silence p
  apOut a := by rw [State.resetWith_ap]; exact length_silence p
  prev i := by rw [State.resetWith_prev]; exact length_silence p
  mono := length_silence p
  tankIn := length_silence p
  grains := by rw [State.resetWith_grains, List.length_map, List.length_range]; rfl
  answers a ha := absurd ha List.not_mem_nil

theorem resetWith_ranges {p : Params} (h : p.valid = true) : (State.resetWith p).ranges := by
  obtain ⟨-, -, hrate, hlen, -⟩ := valid_numbers h
  have hzero : 0 ≤ (NUM.rat 0).val ∧ (NUM.rat 0).val ≤ 1 := by simp
  refine (State.ranges_iff _).2 ⟨h, ⟨fun m => ?_, fun q => ?_, fun g hg => ?_⟩, ?_⟩
  · rw [State.resetWith_md]
    exact ⟨le_rfl, by simp⟩
  · rw [State.resetWith_bq]
    exact hrate
  · rw [State.resetWith_grains] at hg
    obtain ⟨i, -, rfl⟩ := List.mem_map.1 hg
    exact ⟨hlen, rfl⟩
  · have hparam (id : ParamId) : (State.resetWith p).blk.rv.p[id.idx] = .rat 0 := State.resetWith_param p id
    refine ⟨?_, ?_, ?_, hzero, hzero, hzero, hzero, hzero⟩
    · rw [hparam]; exact hzero.1
    · rw [hparam]; exact hzero.1
    · rw [hparam]; exact .inl (by simp)

end Sys2Proof.Machine

namespace Sys2Proof.Claims

open Sys2Proof.Machine

/-- Settles O53: every way an operation can end keeps both halves of the invariant; the construction never changes. -/
theorem stepKeepsTheRanges : Obligations.StepKeepsTheRanges := by
  unfold Obligations.StepKeepsTheRanges
  intro s t hs hstep
  obtain rfl | ⟨p, rest, i, hexecuted⟩ := step_cases hstep
  · exact hs
  · obtain ⟨hcfg, hunits, hengine⟩ := s.ranges_iff.1 hs
    obtain ⟨hunits', hengine'⟩ := hexecuted.inRange hcfg (hunits.of_eq rfl rfl rfl) hengine
    exact t.ranges_iff.2 ⟨by rw [hexecuted.completed.1.cfg]; exact hcfg, hunits', hengine'⟩

/-- Settles O54: each invariant is read off the reset table. -/
theorem resetHasTheInvariants : Obligations.ResetHasTheInvariants := by
  unfold Obligations.ResetHasTheInvariants
  exact fun p h => ⟨resetWith_memoryCanonical h, resetWith_shape p, resetWith_ranges h, rfl⟩

end Sys2Proof.Claims

/-! The operations on one unit, each with the state it ends in on a unit that exists, and typed operands (30_encoding.md R88):
the legal value an operation goes on with, and the refusal of any other. -/

namespace Sys2Proof.Machine

open Sys2Proof.Claims

section
variable (s : State)

theorem State.engineOwned_eq_log (i : Instr) : s.engineOwned i = s.log (ownedRecord s.rvRan i) := s.engineOwned_eq i

theorem State.bufferOwned_eq_log (r : Fin 25) (i : Instr) :
    s.bufferOwned r i = s.log (ownedRecord (if r = 24 then s.gpRan else s.rvRan) i) := s.bufferOwned_eq r i

/-! ## What each operation does on a unit -/

theorem exec_rbWrite (r : Fin 25) : exec (.rbWrite r) s =
    .next ((s.log (ownedRecord (if r = 24 then s.gpRan else s.rvRan) (.rbWrite r))).setRb r
      (rbWrite s.cfg r s.blk.rb[r] s.args.a0)).done := by
  rw [← State.bufferOwned_eq_log]
  show execRbWrite r s = _
  exact onInstance_fin s numRb (.rbWrite r) r _

theorem exec_rbRead (r : Fin 25) : exec (.rbRead r) s =
    .next ((s.log (rbReadViol s.cfg r s.blk.rb[r] s.args.a0)).answer (some (rbRead s.cfg r s.blk.rb[r] s.args.a0))
      [] []) := by
  show execRbRead r s = _
  exact onInstance_fin s numRb (.rbRead r) r _

theorem exec_mdSetp (m : Fin 24) : exec (.mdSetp m) s =
    .next (withOperand s (delayOperand (.mdSetp m) s) fun len =>
      ((s.log (ownedRecord s.rvRan (.mdSetp m))).mdSetParams m len).done) := by
  rw [← State.engineOwned_eq_log]
  show execMdSetp m s = _
  exact onInstance_fin s numMd (.mdSetp m) m _

theorem exec_mdProc (m : Fin 24) : exec (.mdProc m) s =
    .next (withOperand s (blockOperand (.mdProc m) s) fun x =>
      ((s.log (ownedRecord s.rvRan (.mdProc m))).mdProc m x).done) := by
  rw [← State.engineOwned_eq_log]
  show execMdProc m s = _
  exact onInstance_fin s numMd (.mdProc m) m _

theorem exec_mdGeto (m : Fin 24) : exec (.mdGeto m) s = .next (s.answer none s.blk.md[m].out []) := by
  show execMdGeto m s = _
  exact onInstance_fin s numMd (.mdGeto m) m _

theorem exec_apSetp (a : Fin 20) : exec (.apSetp a) s =
    .next (withOperand s (delayOperand (.apSetp a) s) fun len =>
      ((s.log (ownedRecord s.rvRan (.apSetp a))).mdSetParams (mdOfAp a) len).done) := by
  rw [← State.engineOwned_eq_log]
  show execApSetp a s = _
  exact onInstance_fin s numAp (.apSetp a) a _

theorem exec_apSetfb (a : Fin 20) : exec (.apSetfb a) s =
    .next (((s.log (ownedRecord s.rvRan (.apSetfb a))).setAp a { s.blk.ap[a] with fb := s.args.a0 }).log
      (fbViol a s.args.a0)).done := by
  rw [← State.engineOwned_eq_log]
  show execApSetfb a s = _
  exact onInstance_fin s numAp (.apSetfb a) a _

theorem exec_apProc (a : Fin 20) : exec (.apProc a) s =
    .next (withOperand s (blockOperand (.apProc a) s) fun x =>
      ((s.log (ownedRecord s.rvRan (.apProc a))).apProc a x).done) := by
  rw [← State.engineOwned_eq_log]
  show execApProc a s = _
  exact onInstance_fin s numAp (.apProc a) a _

theorem exec_apGeto (a : Fin 20) : exec (.apGeto a) s = .next (s.answer none s.blk.ap[a].out []) := by
  show execApGeto a s = _
  exact onInstance_fin s numAp (.apGeto a) a _

theorem exec_bqUpdate (q : Fin 4) : exec (.bqUpdate q) s =
    .next ((s.log (ownedRecord s.rvRan (.bqUpdate q))).setBq q (s.blk.bq[q].update s.cfg.design)).done := by
  rw [← State.engineOwned_eq_log]
  show execBqUpdate q s = _
  exact onInstance_fin s numBq (.bqUpdate q) q _

theorem exec_bqProc (q : Fin 4) : exec (.bqProc q) s =
    .next (withOperand s (blockOperand (.bqProc q) s) fun x =>
      ((s.log (ownedRecord s.rvRan (.bqProc q))).bqProc q x).1.answer none (bqLoop s.blk.bq[q] x).2 []) := by
  show execBqProc q s = _
  refine (onInstance_fin s numBq (.bqProc q) q _).trans ?_
  rw [State.engineOwned_eq_log]
  rfl

theorem exec_gpSetspeed : exec .gpSetspeed s =
    .next ((s.setGp { s.blk.gp with speed := s.args.a0 }).log (speedViol s.args.a0)).done := rfl

theorem exec_gpProc : exec .gpProc s =
    .next (withOperand s (blockOperand .gpProc s) fun x =>
      ({ (s.gpProc x).1 with gpRan := true } : State).answer none (s.gpProc x).2 []) := rfl

end

/-! ## Typed operands -/

section
variable {s : State} {i : Instr}

theorem withOperand_of_ok {α : Type} {o : Except Viol α} {a : α} {run : α → State} (h : o = .ok a) :
    withOperand s o run = run a := by rw [h, withOperand]

theorem withOperand_of_error {α : Type} {o : Except Viol α} {v : Viol} {run : α → State} (h : o = .error v) :
    withOperand s o run = s.refuse v := by rw [h, withOperand]

theorem naturalOperand_eq_none {v : NUM} (h : ∀ n : Nat, v.val ≠ n) : naturalOperand v = none := by
  cases hv : naturalOperand v with
  | none => rfl
  | some n => exact absurd (naturalOperand_eq_some.1 hv) (h n)

theorem delayOperand_of_natural {d : Nat} (h : s.args.a0.val = d) : delayOperand i s = .ok d := by
  rw [delayOperand, naturalOperand_eq_some.2 h]

theorem delayOperand_of_illTyped (h : ∀ n : Nat, s.args.a0.val ≠ n) :
    delayOperand i s = .error (.operand i .a0 s.args.a0) := by
  rw [delayOperand, naturalOperand_eq_none h]

theorem blockOperand_of_size {l : Nat} (h0 : s.args.a0.val = l) (hB : l ≤ s.cfg.blockSize) (hx : l ≤ s.args.xin0.length) :
    blockOperand i s = .ok (s.args.xin0.take l) := (blockOperand_eq_ok s).2 ⟨l, h0, hB, hx, rfl⟩

theorem blockOperand_of_illTyped (h : ∀ n : Nat, n ≤ s.cfg.blockSize → s.args.a0.val ≠ n) :
    blockOperand i s = .error (.operand i .a0 s.args.a0) := by
  have hsize : bufSizeOperand s.cfg.blockSize s.args.a0 = none := by
    cases hv : bufSizeOperand s.cfg.blockSize s.args.a0 with
    | none => rfl
    | some n =>
      obtain ⟨hn, hB⟩ := bufSizeOperand_eq_some.1 hv
      exact absurd hn (h n hB)
  rw [blockOperand, hsize]

theorem stereoOperand_of_illTyped (h : s.args.a0.val ≠ s.cfg.blockSize) :
    stereoOperand i s = .error (.operand i .a0 s.args.a0) := by
  rw [stereoOperand, if_neg (by simpa using h)]

/-- An ill-typed first operand: the packet is refused with that record alone (60_exceptions.md R214, R215). -/
theorem exec_of_illTyped (h : illTyped s i) : exec i s = .next (s.refuse (.operand i .a0 s.args.a0)) := by
  cases i with
  | mdSetp m =>
    obtain ⟨hm, h⟩ := h
    exact (exec_mdSetp s ⟨m, hm⟩).trans (congrArg _ (withOperand_of_error (delayOperand_of_illTyped h)))
  | apSetp a =>
    obtain ⟨ha, h⟩ := h
    exact (exec_apSetp s ⟨a, ha⟩).trans (congrArg _ (withOperand_of_error (delayOperand_of_illTyped h)))
  | mdProc m =>
    obtain ⟨hm, h⟩ := h
    exact (exec_mdProc s ⟨m, hm⟩).trans (congrArg _ (withOperand_of_error (blockOperand_of_illTyped h)))
  | apProc a =>
    obtain ⟨ha, h⟩ := h
    exact (exec_apProc s ⟨a, ha⟩).trans (congrArg _ (withOperand_of_error (blockOperand_of_illTyped h)))
  | bqProc q =>
    obtain ⟨hq, h⟩ := h
    exact (exec_bqProc s ⟨q, hq⟩).trans (congrArg _ (withOperand_of_error (blockOperand_of_illTyped h)))
  | gpProc => exact (exec_gpProc s).trans (congrArg _ (withOperand_of_error (blockOperand_of_illTyped h)))
  | bqSetfs q =>
    obtain ⟨hq, h⟩ := h
    exact exec_bqSetfs_of_nonpos (k := ⟨q, hq⟩) h
  | gpSeed => rw [exec_gpSeed, execGpSeed, naturalOperand_eq_none h]
  | rvProc => exact exec_rvProc_of_illTyped (stereoOperand_of_illTyped h)
  | rvSetSizeEarly =>
    exact exec_setparamInstr_of_not_inDomain s (id := .sizeEarly) fun hin => absurd ((inDomain_iff _ _).1 hin) (not_le.2 h)
  | rvSetSizeLate =>
    exact exec_setparamInstr_of_not_inDomain s (id := .sizeLate) fun hin => absurd ((inDomain_iff _ _).1 hin) (not_le.2 h)
  | rvSetEarlyStages =>
    refine exec_setparamInstr_of_not_inDomain s (id := .earlyStages) fun hin => ?_
    obtain ⟨n, h1, h12, hn⟩ := (inDomain_iff _ _).1 hin
    exact h n h1 h12 hn
  | _ => exact h.elim

end

/-! ## The arithmetic of the records and reads -/

/-- The read in the terms of 40_ring_buffer.md R102. -/
theorem val_rbRead_eq_readValue (p : Params) (r : Fin 25) (b : RingBuf) (pos : NUM) :
    (rbRead p r b pos).val = readValue p r b pos.val := val_rbRead p r b pos

theorem inWindow_iff (n wc : Nat) (pos : NUM) :
    inWindow n wc pos = true ↔ (wc : Int) - n ≤ ⌊pos.val⌋ ∧ ⌈pos.val⌉ ≤ (wc : Int) - 1 := by simp [inWindow]

/-- The record of a read in the terms of 40_ring_buffer.md R102. -/
theorem rbReadViol_eq_rangeRecord (p : Params) (r : Fin 25) (b : RingBuf) (pos : NUM) :
    rbReadViol p r b pos = rangeRecord p r b pos := by
  unfold rbReadViol rangeRecord
  by_cases h : inWindow p.rbCap[r] b.wc pos = true
  · obtain ⟨hlow, hhigh⟩ := (inWindow_iff _ _ _).1 h
    rw [if_pos h, if_neg (by omega)]
  · rw [if_neg h, if_pos]
    rw [inWindow_iff, not_and_or, not_le, not_le] at h
    exact h

theorem speedViol_eq (v : NUM) : speedViol v = if v.val ≤ 0 then [.gpRange v] else [] := by
  by_cases h : v.val ≤ 0
  · rw [speedViol, if_neg (by simpa [NUM.lt_iff] using h), if_pos h]
  · rw [speedViol, if_pos (by simpa [NUM.lt_iff] using h), if_neg h]

theorem bqViol_eq (q : Fin 4) (f : Biquad) :
    bqViol q f = if 0 < f.freq.val ∧ f.freq.val ≤ f.fs.val / 2 then [] else [.bqParam q f.freq f.fs] := by
  simp [bqViol]

/-- The four operands of a SETP on the delay's fields (41_modulated_delay.md R111). -/
theorem ModDelay.setParams_eq (d : ModDelay) (len : Int) (rate depth v : NUM) :
    d.setParams len rate depth (booleanOperand v) =
      { d with delaySamples := len, modRate := rate, modAmount := depth, interp := decide (v.val ≠ 0) } := by
  rw [booleanOperand_eq, ModDelay.setParams]

end Sys2Proof.Machine

namespace Sys2Proof.Claims

open Sys2Proof.Machine

/-- Settles O7: the written slot, the other slots and the other buffers by the rules of `rbWrite`. -/
theorem rbWriteStoresAtTheCursor : Obligations.RbWriteStoresAtTheCursor := by
  unfold Obligations.RbWriteStoresAtTheCursor
  intro s r hwf
  refine ⟨_, exec_rbWrite s r, ?_⟩
  simp only [State.done_blk, State.setRb_rb, getElem_fin_set_self]
  refine ⟨rfl, ?stored, fun j hj => memRead_rbWrite_of_ne hwf hj, fun k hk => getElem_fin_set_ne hk, rfl, rfl, ⟨rfl, rfl⟩,
    (((KeepsHost.refl s).log _).setRb r _).done⟩
  case stored => rw [memRead_rbWrite _ hwf, if_pos rfl]

/-- Settles O8: value and record of the read are those of R102, and only the log changes. -/
theorem rbReadInterpolates : Obligations.RbReadInterpolates := by
  unfold Obligations.RbReadInterpolates
  intro s r
  refine ⟨_, _, exec_rbRead s r, rfl, ⟨rfl, rfl⟩, ?record, val_rbRead_eq_readValue _ _ _ _,
    ((KeepsHost.refl s).log _).answer _ _ _⟩
  case record => rw [State.answer_viol, State.log_viol, rbReadViol_eq_rangeRecord]

/-- Settles O10: no sample of the stream has the slot of the negative time index, so that slot holds the 0 of reset. -/
theorem startUpReadsSilence : Obligations.StartUpReadsSilence := by
  unfold Obligations.StartUpReadsSilence
  intro p r x a pos _ hcap hlow hneg hpos
  have hunwritten : slotOf p.rbCap[r] a ∉ storedSlots p.rbCap[r] 0 x.length := by
    rw [mem_storedSlots]
    rintro ⟨i, hi, hslot⟩
    exact slotOf_ne_of_lt (by omega) (by omega) hslot.symm
  rw [rbRead_ofInt p r _ hpos, memRead_rbWrite_foldl_of_not_mem hcap (Memory.wf_nil _) hunwritten]
  simp [memRead, Memory.read]

/-- Settles O12: a natural delay is stored with the other three fields; any other is refused. -/
theorem mdSetpWritesFourFields : Obligations.MdSetpWritesFourFields := by
  unfold Obligations.MdSetpWritesFourFields
  refine fun s m => ⟨fun d hd => ?natural, fun h => ⟨_, exec_of_illTyped ⟨m.isLt, h⟩, s.refuse_refused _⟩⟩
  refine ⟨_, (exec_mdSetp s m).trans (congrArg _ (withOperand_of_ok (delayOperand_of_natural hd))), ?fields,
    fun k hk => getElem_fin_set_ne hk, rfl, rfl, ⟨rfl, rfl⟩, (((KeepsHost.refl s).log _).setMd m _).done⟩
  case fields =>
    rw [State.done_blk, State.mdSetParams, State.setMd_md, getElem_fin_set_self]
    exact ModDelay.setParams_eq _ _ _ _ _

/-- Settles O15: both operations answer with the buffer and do nothing else. -/
theorem getoReturnsTheOutputBuffer : Obligations.GetoReturnsTheOutputBuffer := by
  unfold Obligations.GetoReturnsTheOutputBuffer
  exact ⟨fun s m => ⟨_, exec_mdGeto s m, rfl, rfl, ⟨rfl, rfl⟩, (KeepsHost.refl s).answer _ _ _⟩,
    fun s a => ⟨_, exec_apGeto s a, rfl, rfl, ⟨rfl, rfl⟩, (KeepsHost.refl s).answer _ _ _⟩⟩

/-- Settles O17: with a natural delay both set the parameters of the one delay `MD[4+a]`, with any other both are refused. -/
theorem apSetpIsMdSetpOfTheOwnedDelay : Obligations.ApSetpIsMdSetpOfTheOwnedDelay := by
  unfold Obligations.ApSetpIsMdSetpOfTheOwnedDelay
  intro s a
  by_cases hd : ∃ d : Nat, s.args.a0.val = d
  · obtain ⟨d, hd⟩ := hd
    refine ⟨_, _, (exec_apSetp s a).trans (congrArg _ (withOperand_of_ok (delayOperand_of_natural hd))),
      (exec_mdSetp s (mdOfAp a)).trans (congrArg _ (withOperand_of_ok (delayOperand_of_natural hd))), rfl,
      (((KeepsHost.refl s).log _).setMd (mdOfAp a) _).done, ⟨rfl, rfl⟩, fun e he => ?_⟩
    obtain rfl : d = e := by exact_mod_cast hd.symm.trans he
    refine ⟨rfl, ?fields, fun k hk => getElem_fin_set_ne hk, rfl⟩
    case fields =>
      rw [State.done_blk, State.mdSetParams, State.setMd_md, getElem_fin_set_self]
      exact ModDelay.setParams_eq _ _ _ _ _
  · have hill : ∀ d : Nat, s.args.a0.val ≠ d := fun d he => hd ⟨d, he⟩
    exact ⟨_, _, exec_of_illTyped ⟨a.isLt, hill⟩, exec_of_illTyped (i := .mdSetp (4 + a)) ⟨(mdOfAp a).isLt, hill⟩, rfl,
      ((KeepsHost.refl s).log _).done, ⟨rfl, rfl⟩, fun e he => absurd he (hill e)⟩

/-- Settles O18: the coefficient is stored as given; its record is that of a value outside [0,1). -/
theorem apSetfbStoresUnchecked : Obligations.ApSetfbStoresUnchecked := by
  unfold Obligations.ApSetfbStoresUnchecked
  intro s a
  refine ⟨_, exec_apSetfb s a, getElem_fin_set_self _ _ _, fun k hk => getElem_fin_set_ne hk, rfl, ⟨rfl, rfl⟩, ?records,
    ((((KeepsHost.refl s).log _).setAp a _).log _).done⟩
  case records => rw [State.done_viol, State.log_viol, fbViol_eq]; rfl

/-- Settles O23: each setter is one register write; the rate of BQ.SETFS is checked first. -/
theorem bqSettersWriteOneField : Obligations.BqSettersWriteOneField := by
  unfold Obligations.BqSettersWriteOneField
  intro s q ty
  have hs := KeepsHost.refl s
  refine ⟨⟨_, exec_bqSettype s q ty, ?_⟩, ⟨_, exec_bqSetfreq s q, ?_⟩, fun hpos => ⟨_, exec_bqSetfs_of_pos hpos, ?_⟩,
    fun hneg => ⟨_, exec_bqSetfs_of_nonpos hneg, s.refuse_refused _⟩⟩
  all_goals
    rw [State.engineOwned_eq_log]
    exact ⟨rfl, rfl, ⟨rfl, rfl⟩, ((hs.log _).setBq q _).done⟩

/-- Settles O24: the filter's own three fields determine the coefficients. -/
theorem bqUpdateWritesTheCoefficients : Obligations.BqUpdateWritesTheCoefficients := by
  unfold Obligations.BqUpdateWritesTheCoefficients
  intro s q
  exact ⟨_, exec_bqUpdate s q, getElem_fin_set_self _ _ _, fun k hk => getElem_fin_set_ne hk, rfl, rfl, ⟨rfl, rfl⟩,
    (((KeepsHost.refl s).log _).setBq q _).done⟩

/-- Settles O40: the block size is checked first; with legal operands EarlyStages decides. -/
theorem rvProcRefusals : Obligations.RvProcRefusals := by
  unfold Obligations.RvProcRefusals
  refine ⟨fun s hsize hl hr hstages => ?stages, fun s h => ⟨_, exec_of_illTyped h, s.refuse_refused _⟩⟩
  have hx := (stereoOperand_eq_ok s (i := .rvProc)).2 ⟨hsize, hl, hr, rfl⟩
  have hnone : stageOperand (s.param .earlyStages) = none := by
    rw [← Option.not_isSome_iff_eq_none, isSome_stageOperand_iff]
    rintro ⟨n, h1, h12, hn⟩
    exact hstages n h1 h12 hn
  exact ⟨_, exec_rvProc_of_noStage hx hnone, s.refuse_refused _⟩

/-- Settles O44: GP.SETSPEED stores the operand unchecked, GP.SEED restarts the generator. -/
theorem gpSettersWriteOneRegister : Obligations.GpSettersWriteOneRegister := by
  unfold Obligations.GpSettersWriteOneRegister
  refine ⟨fun s => ?speed, fun s k hk => ?seed⟩
  case speed =>
    refine ⟨_, exec_gpSetspeed s, rfl, ⟨rfl, rfl⟩, ?_, (((KeepsHost.refl s).setGp _).log _).done⟩
    rw [State.done_viol, State.log_viol, speedViol_eq]
    rfl
  case seed => exact ⟨_, exec_gpSeed_of_natural hk, rfl, ⟨rfl, rfl⟩, rfl, ((KeepsHost.refl s).setGp _).done⟩

/-- Settles O49: one refusal for each operation with a typed operand. -/
theorem illTypedOperandsAreRefused : Obligations.IllTypedOperandsAreRefused := by
  unfold Obligations.IllTypedOperandsAreRefused
  exact fun s i h => ⟨_, exec_of_illTyped h, s.refuse_refused _⟩

end Sys2Proof.Claims

/-! MD.PROC on a block (41_modulated_delay.md sections 2 and 3): the positions it reads as real numbers, the samples of its output
buffer, and the window in which every read stays. -/

namespace Sys2Proof.Machine

open Sys2Proof.Claims

/-! ## Samples of lists -/

theorem sampleAt_overwrite {old new : List NUM} {n : Nat} (h : n < new.length) :
    sampleAt (overwrite old new) n = sampleAt new n := by
  rw [sampleAt, sampleAt, List.getD_eq_getElem?_getD, List.getD_eq_getElem?_getD, overwrite_getElem?, if_pos h]

theorem overwrite_getElem?_of_le {old new : List NUM} {n : Nat} (h : new.length ≤ n) :
    (overwrite old new)[n]? = old[n]? := by
  rw [overwrite_getElem?, if_neg (not_lt.2 h)]

theorem sampleAt_map {f : NUM → NUM} {x : List NUM} {n : Nat} (h : n < x.length) :
    sampleAt (x.map f) n = (f (x.getD n (.rat 0))).val := by
  rw [sampleAt, List.getD_eq_getElem _ _ (by simpa using h), List.getElem_map, List.getD_eq_getElem _ _ h]

theorem sampleAt_take {x : List NUM} {l n : Nat} (h : n < l) : sampleAt (x.take l) n = sampleAt x n := by
  rw [sampleAt, sampleAt, List.getD_eq_getElem?_getD, List.getD_eq_getElem?_getD, List.getElem?_take_of_lt h]

/-! ## The position read -/

theorem ModDelay.val_offset (d : ModDelay) :
    d.offset.val = d.modAmount.val * Real.sin (2 * Real.pi * d.phase.val) := by
  rw [ModDelay.offset, NUM.val_mul, NUM.val_sinTurns]

theorem ModDelay.abs_offset_le (d : ModDelay) : |d.offset.val| ≤ |d.modAmount.val| := by
  rw [ModDelay.val_offset, abs_mul]
  exact mul_le_of_le_one_right (abs_nonneg _) (Real.abs_sin_le_one _)

/-- The position read is that of R112 and R114. -/
theorem ModDelay.val_tap (d : ModDelay) (t : Nat) : (d.tap t).val = readPosition d d.phase.val t := by
  have hpos : ((NUM.ofInt (t - d.delaySamples)).add d.offset).val =
      (t : ℝ) - d.delaySamples + d.modAmount.val * Real.sin (2 * Real.pi * d.phase.val) := by
    rw [NUM.val_add, NUM.val_ofInt, ModDelay.val_offset]
    push_cast
    rfl
  unfold ModDelay.tap readPosition
  dsimp only
  split
  · exact hpos
  · rw [NUM.val_ofInt, roundHalfUp_eq, hpos]

theorem getD_mdTaps {d : ModDelay} {k0 l n : Nat} (h : n < l) :
    (mdTaps d k0 l).getD n (.rat 0) = (d.advance l).tap (k0 + n) := by
  rw [List.getD_eq_getElem _ _ (by simpa using h)]
  simp [mdTaps]

/-- Between integers that the modulated position keeps between at every phase, the slots read stay too, rounded or not. -/
theorem ModDelay.tap_between {d : ModDelay} {t : Nat} {lo hi : Int}
    (hlo : (lo : ℝ) ≤ t - d.delaySamples - |d.modAmount.val|) (hhi : t - d.delaySamples + |d.modAmount.val| ≤ (hi : ℝ)) :
    lo ≤ ⌊(d.tap t).val⌋ ∧ ⌈(d.tap t).val⌉ ≤ hi := by
  obtain ⟨hneg, hpos⟩ := abs_le.1 d.abs_offset_le
  rw [ModDelay.val_offset] at hneg hpos
  rw [ModDelay.val_tap, readPosition]
  split
  · exact ⟨Int.le_floor.2 (by linarith), Int.ceil_le.2 (by linarith)⟩
  · rw [Int.floor_intCast, Int.ceil_intCast]
    refine ⟨Int.le_floor.2 (by linarith), Int.lt_add_one_iff.1 (Int.floor_lt.2 ?_)⟩
    push_cast
    linarith

/-! ## MD.PROC -/

section
variable (s : State) (m : Fin 24) (x : List NUM)

theorem State.mdProc_md_same : (s.mdProc m x).blk.md[m] = { s.blk.md[m].advance x.length with
    out := overwrite s.blk.md[m].out ((mdTaps s.blk.md[m] s.blk.rb[rbOfMd m].wc x.length).map
      (rbRead s.cfg (rbOfMd m) (x.foldl (rbWrite s.cfg (rbOfMd m)) s.blk.rb[rbOfMd m]))) } := by
  rw [State.mdProc_md, getElem_fin_set_self]

theorem State.mdProc_md_ne {k : Fin 24} (h : k ≠ m) : (s.mdProc m x).blk.md[k] = s.blk.md[k] := by
  rw [State.mdProc_md, getElem_fin_set_ne h]

theorem State.mdProc_rb_same :
    (s.mdProc m x).blk.rb[rbOfMd m] = x.foldl (rbWrite s.cfg (rbOfMd m)) s.blk.rb[rbOfMd m] := by
  rw [State.mdProc_rb, getElem_fin_set_self]

theorem State.mdProc_rb_ne {k : Fin 25} (h : k ≠ rbOfMd m) : (s.mdProc m x).blk.rb[k] = s.blk.rb[k] := by
  rw [State.mdProc_rb, getElem_fin_set_ne h]

theorem State.mdProc_blk : (s.mdProc m x).blk =
    { s.blk with rb := (s.mdProc m x).blk.rb, md := (s.mdProc m x).blk.md } := rfl

theorem State.mdProc_phase_val : (s.mdProc m x).blk.md[m].phase.val =
    Int.fract (s.blk.md[m].phase.val + s.blk.md[m].modRate.val * x.length) := by
  rw [State.mdProc_md_same]
  simp

/-- Every position of the block, with the phase that the block has advanced to. -/
theorem State.mdProc_position {n : Nat} (h : n < x.length) :
    sampleAt (mdTaps s.blk.md[m] s.blk.rb[rbOfMd m].wc x.length) n =
      readPosition s.blk.md[m] (s.mdProc m x).blk.md[m].phase.val (s.blk.rb[rbOfMd m].wc + n) := by
  rw [sampleAt, getD_mdTaps h, ModDelay.val_tap, State.mdProc_md_same]
  rfl

/-- Every output sample is the read at its position, of the buffer that has taken the whole block (R112). -/
theorem State.sampleAt_mdProc_out {n : Nat} (h : n < x.length) :
    sampleAt (s.mdProc m x).blk.md[m].out n = readValue s.cfg (rbOfMd m) (s.mdProc m x).blk.rb[rbOfMd m]
      (sampleAt (mdTaps s.blk.md[m] s.blk.rb[rbOfMd m].wc x.length) n) := by
  rw [State.mdProc_md_same, State.mdProc_rb_same]
  dsimp only
  rw [sampleAt_overwrite (by simpa using h), sampleAt_map (by simpa using h), val_rbRead_eq_readValue, sampleAt]

theorem State.mdProc_out_rest {n : Nat} (h : x.length ≤ n) : (s.mdProc m x).blk.md[m].out[n]? = s.blk.md[m].out[n]? := by
  rw [State.mdProc_md_same]
  exact overwrite_getElem?_of_le (by simpa using h)

theorem State.mdProc_records : (s.mdProc m x).viol = s.viol ++
    (mdTaps s.blk.md[m] s.blk.rb[rbOfMd m].wc x.length).flatMap
      (rangeRecord s.cfg (rbOfMd m) (s.mdProc m x).blk.rb[rbOfMd m]) := by
  rw [State.mdProc_viol, State.mdProc_rb_same, ← funext (rbReadViol_eq_rangeRecord _ _ _)]

end

end Sys2Proof.Machine

namespace Sys2Proof.Claims

open Sys2Proof.Machine

/-- Settles O13: the rules of MD.PROC above, on the state with the record CV_OWNED. -/
theorem mdProcWritesThenReads : Obligations.MdProcWritesThenReads := by
  unfold Obligations.MdProcWritesThenReads
  intro s m l h0 hB hx hwf hcap
  have hlen : (s.args.xin0.take l).length = l := by simp [hx]
  generalize hu : s.log (ownedRecord s.rvRan (.mdProc m)) = u
  have hexec : exec (.mdProc m) s = .next (u.mdProc m (s.args.xin0.take l)).done := by
    rw [exec_mdProc, withOperand_of_ok (blockOperand_of_size h0 hB hx), hu]
  have hhost : KeepsHost s (u.mdProc m (s.args.xin0.take l)) := hu ▸ ((KeepsHost.refl s).log _).mdProc m _
  have hblk : u.blk = s.blk := by rw [← hu]; rfl
  have hcfg : u.cfg = s.cfg := by rw [← hu]; rfl
  have hviol : u.viol = s.viol ++ ownedRecord s.rvRan (.mdProc m) := by rw [← hu]; rfl
  have howners : sameOwners s (u.mdProc m (s.args.xin0.take l)) := by rw [← hu]; exact ⟨rfl, rfl⟩
  have hbuf := u.mdProc_rb_same m (s.args.xin0.take l)
  have hphase := u.mdProc_phase_val m (s.args.xin0.take l)
  have hrecords := u.mdProc_records m (s.args.xin0.take l)
  simp only [hblk, hcfg, hlen, hviol] at hbuf hphase hrecords
  refine ⟨_, mdTaps s.blk.md[m] s.blk.rb[rbOfMd m].wc l, hexec, mdTaps_length _ _ _, hbuf, ?cursor, ?kept, hphase, ?samples,
    ?rest, ?fields, ?delays, ?buffers, ?block, sameOwners_done howners, hrecords, hhost.done⟩
  all_goals rw [State.done_blk]
  case cursor => rw [hbuf, rbWrite_foldl_wc, hlen]
  case kept =>
    intro j hj
    rw [hbuf, memRead_rbWrite_foldl_of_not_mem hcap hwf (by rwa [hlen])]
  case samples =>
    intro n hn
    have hpos := u.mdProc_position m (s.args.xin0.take l) (n := n) (by rwa [hlen])
    have hout := u.sampleAt_mdProc_out m (s.args.xin0.take l) (n := n) (by rwa [hlen])
    simp only [hblk, hcfg, hlen] at hpos hout
    exact ⟨hpos, hout⟩
  case rest =>
    intro n hn
    have hrest := u.mdProc_out_rest m (s.args.xin0.take l) (n := n) (by rwa [hlen])
    rwa [hblk] at hrest
  case fields => rw [State.mdProc_md_same, hblk]; rfl
  case delays =>
    intro k hk
    rw [State.mdProc_md_ne _ _ _ hk, hblk]
  case buffers =>
    intro k hk
    rw [State.mdProc_rb_ne _ _ _ hk, hblk]
  case block => rw [State.mdProc_blk, hblk]

/-- Settles O16: the block's positions all lie between the oldest sample kept and the newest written. -/
theorem delayWindowSuffices : Obligations.DelayWindowSuffices := by
  unfold Obligations.DelayWindowSuffices
  rintro s m x ⟨hdepth, hfit⟩
  rw [State.mdProc_viol, List.append_right_eq_self, List.flatMap_eq_nil_iff]
  intro pos hpos
  obtain ⟨n, hn, rfl⟩ := List.mem_map.1 hpos
  have hn' : (n : ℝ) + 1 ≤ x.length := by exact_mod_cast List.mem_range.1 hn
  rw [rbReadViol, if_pos]
  rw [inWindow_iff, rbWrite_foldl_wc]
  refine ModDelay.tap_between ?oldest ?newest
  all_goals
    simp only [ModDelay.advance_delaySamples, ModDelay.advance_modAmount]
    push_cast
    linarith [(Nat.cast_nonneg n : (0 : ℝ) ≤ n)]

end Sys2Proof.Claims

/-! AP.PROC on a block (42_modulated_allpass.md section 2): sample by sample, the value read from the buffer that holds the samples
written before it, the sample written, the output and the record. -/

namespace Sys2Proof.Machine

open Sys2Proof.Claims

/-! ## The sample loop at one place -/

section
variable (p : Params) (r : Fin 25) (m : ModDelay) (g : NUM)

/-- The value `d` that the sample loop of AP.PROC reads for its sample `n` (42_modulated_allpass.md R123). -/
def apRead (b : RingBuf) (x : List NUM) (n : Nat) : NUM :=
  rbRead p r (((apFed p r m g b x).take n).foldl (rbWrite p r) b) (m.tap (b.wc + n))

/-- The buffer after the first sample of a block. -/
theorem apRead_succ (b : RingBuf) (v : NUM) (x : List NUM) (n : Nat) : apRead p r m g b (v :: x) (n + 1) =
    apRead p r m g (rbWrite p r b (v.add (g.mul (rbRead p r b (m.tap b.wc))))) x n := by
  rw [apRead, apRead, apFed, List.take_succ_cons, List.foldl_cons, rbWrite_wc, Nat.add_assoc, Nat.add_comm 1]

theorem sampleAt_cons_zero (v : NUM) (x : List NUM) : sampleAt (v :: x) 0 = v.val := rfl

theorem sampleAt_cons_succ (v : NUM) (x : List NUM) (n : Nat) : sampleAt (v :: x) (n + 1) = sampleAt x n := rfl

/-- `u[n] = x[n] + g·d`. -/
theorem sampleAt_apFed {b : RingBuf} {x : List NUM} {n : Nat} (h : n < x.length) :
    sampleAt (apFed p r m g b x) n = sampleAt x n + g.val * (apRead p r m g b x n).val := by
  induction x generalizing b n with
  | nil => cases h
  | cons v x ih =>
    cases n with
    | zero => rw [apFed, sampleAt_cons_zero, sampleAt_cons_zero, NUM.val_add, NUM.val_mul]; rfl
    | succ n => rw [apFed, sampleAt_cons_succ, sampleAt_cons_succ, apRead_succ, ih (Nat.lt_of_succ_lt_succ h)]

theorem val_apOutput (f : ApForm) (g d u x : NUM) :
    (apOutput f g d u x).val = d.val - g.val * (if f = .schroeder then u.val else x.val) := by
  cases f <;> simp [apOutput]

/-- The output is `d − g·u[n]`, or `d − g·x[n]` in the literal form. -/
theorem sampleAt_apLoop_out {b : RingBuf} {x : List NUM} {n : Nat} (h : n < x.length) :
    sampleAt (apLoop p r m g b x).out n = (apRead p r m g b x n).val -
      g.val * (if p.apForm = .schroeder then sampleAt (apFed p r m g b x) n else sampleAt x n) := by
  induction x generalizing b n with
  | nil => cases h
  | cons v x ih =>
    cases n with
    | zero => rw [apLoop, apFed, sampleAt_cons_zero, sampleAt_cons_zero, sampleAt_cons_zero, val_apOutput]; rfl
    | succ n =>
      rw [apLoop, apFed, sampleAt_cons_succ, sampleAt_cons_succ, sampleAt_cons_succ, apRead_succ,
        ih (Nat.lt_of_succ_lt_succ h)]

/-- One record for each read outside the window of its own time. -/
theorem apLoop_viol (b : RingBuf) (x : List NUM) : (apLoop p r m g b x).viol = (List.range x.length).flatMap fun n =>
    rbReadViol p r (((apFed p r m g b x).take n).foldl (rbWrite p r) b) (m.tap (b.wc + n)) := by
  induction x generalizing b with
  | nil => rfl
  | cons v x ih =>
    rw [apLoop, List.length_cons, List.range_succ_eq_map, List.flatMap_cons, List.flatMap_map]
    dsimp only
    rw [ih]
    simp only [apFed, List.take_succ_cons, List.foldl_cons, rbWrite_wc, Nat.add_assoc, Nat.add_comm 1, List.take_zero,
      List.foldl_nil, Nat.add_zero]

end

/-! ## AP.PROC -/

section
variable (s : State) (a : Fin 20) (x : List NUM)

/-- The samples AP.PROC writes into the buffer of the owned delay. -/
def State.apFed : List NUM := Machine.apFed s.cfg (rbOfMd (mdOfAp a)) (s.blk.md[mdOfAp a].advance x.length) s.blk.ap[a].fb
  s.blk.rb[rbOfMd (mdOfAp a)] x

/-- The buffer of the owned delay when AP.PROC reads for its sample `n`. -/
def State.apBuffer (n : Nat) : RingBuf :=
  ((s.apFed a x).take n).foldl (rbWrite s.cfg (rbOfMd (mdOfAp a))) s.blk.rb[rbOfMd (mdOfAp a)]

@[simp] theorem State.apFed_length : (s.apFed a x).length = x.length := Machine.apFed_length _ _ _ _ _ _

theorem State.apProc_rb_same : (s.apProc a x).blk.rb[rbOfMd (mdOfAp a)] =
    (s.apFed a x).foldl (rbWrite s.cfg (rbOfMd (mdOfAp a))) s.blk.rb[rbOfMd (mdOfAp a)] := by
  rw [State.apProc_rb, getElem_fin_set_self, apRun, apLoop_buf]
  rfl

theorem State.apProc_rb_ne {k : Fin 25} (h : k ≠ rbOfMd (mdOfAp a)) : (s.apProc a x).blk.rb[k] = s.blk.rb[k] := by
  rw [State.apProc_rb, getElem_fin_set_ne h]

theorem State.apProc_md_same : (s.apProc a x).blk.md[mdOfAp a] = s.blk.md[mdOfAp a].advance x.length := by
  rw [State.apProc_md, getElem_fin_set_self]

theorem State.apProc_md_ne {k : Fin 24} (h : k ≠ mdOfAp a) : (s.apProc a x).blk.md[k] = s.blk.md[k] := by
  rw [State.apProc_md, getElem_fin_set_ne h]

theorem State.apProc_ap_same :
    (s.apProc a x).blk.ap[a] = { s.blk.ap[a] with out := overwrite s.blk.ap[a].out (apRun s a x).out } := by
  rw [State.apProc_ap, getElem_fin_set_self]

theorem State.apProc_ap_ne {k : Fin 20} (h : k ≠ a) : (s.apProc a x).blk.ap[k] = s.blk.ap[k] := by
  rw [State.apProc_ap, getElem_fin_set_ne h]

theorem State.apProc_blk : (s.apProc a x).blk = { s.blk with
    rb := (s.apProc a x).blk.rb, md := (s.apProc a x).blk.md, ap := (s.apProc a x).blk.ap } := rfl

theorem State.apProc_phase_val : (s.apProc a x).blk.md[mdOfAp a].phase.val =
    Int.fract (s.blk.md[mdOfAp a].phase.val + s.blk.md[mdOfAp a].modRate.val * x.length) := by
  rw [State.apProc_md_same]
  simp

@[simp] theorem apRun_out_length : (apRun s a x).out.length = x.length := apLoop_length _ _ _ _ _ _

theorem State.apProc_out_rest {n : Nat} (h : x.length ≤ n) : (s.apProc a x).blk.ap[a].out[n]? = s.blk.ap[a].out[n]? := by
  rw [State.apProc_ap_same]
  exact overwrite_getElem?_of_le (by simpa using h)

theorem State.apProc_out_take : (s.apProc a x).blk.ap[a].out.take x.length = (apRun s a x).out := by
  rw [State.apProc_ap_same]
  dsimp only
  rw [overwrite, List.take_append_of_le_length (by simp), List.take_of_length_le (by simp)]

variable {x} {n : Nat}

theorem State.apProc_position (h : n < x.length) :
    sampleAt (mdTaps s.blk.md[mdOfAp a] s.blk.rb[rbOfMd (mdOfAp a)].wc x.length) n =
      readPosition s.blk.md[mdOfAp a] (s.apProc a x).blk.md[mdOfAp a].phase.val
        (s.blk.rb[rbOfMd (mdOfAp a)].wc + n) := by
  rw [sampleAt, getD_mdTaps h, ModDelay.val_tap, State.apProc_md_same]
  rfl

/-- What AP.PROC reads for sample `n`: the delayed value, from the buffer that holds the samples written before. -/
theorem State.val_apRead (h : n < x.length) :
    (apRead s.cfg (rbOfMd (mdOfAp a)) (s.blk.md[mdOfAp a].advance x.length) s.blk.ap[a].fb
      s.blk.rb[rbOfMd (mdOfAp a)] x n).val = readValue s.cfg (rbOfMd (mdOfAp a)) (s.apBuffer a x n)
        (sampleAt (mdTaps s.blk.md[mdOfAp a] s.blk.rb[rbOfMd (mdOfAp a)].wc x.length) n) := by
  rw [apRead, val_rbRead_eq_readValue, sampleAt, getD_mdTaps h]
  rfl

theorem State.sampleAt_apFed (h : n < x.length) : sampleAt (s.apFed a x) n = sampleAt x n + s.blk.ap[a].fb.val *
    readValue s.cfg (rbOfMd (mdOfAp a)) (s.apBuffer a x n)
      (sampleAt (mdTaps s.blk.md[mdOfAp a] s.blk.rb[rbOfMd (mdOfAp a)].wc x.length) n) := by
  rw [State.apFed, Machine.sampleAt_apFed _ _ _ _ h, s.val_apRead a h]

theorem State.sampleAt_apProc_out (h : n < x.length) : sampleAt (s.apProc a x).blk.ap[a].out n =
    readValue s.cfg (rbOfMd (mdOfAp a)) (s.apBuffer a x n)
      (sampleAt (mdTaps s.blk.md[mdOfAp a] s.blk.rb[rbOfMd (mdOfAp a)].wc x.length) n) -
      s.blk.ap[a].fb.val * (if s.cfg.apForm = .schroeder then sampleAt (s.apFed a x) n else sampleAt x n) := by
  rw [State.apProc_ap_same]
  dsimp only
  rw [sampleAt_overwrite (by simpa using h), apRun, sampleAt_apLoop_out _ _ _ _ h, s.val_apRead a h]
  rfl

theorem State.apProc_records : (s.apProc a x).viol = s.viol ++ (List.range x.length).flatMap fun n =>
    rangeRecord s.cfg (rbOfMd (mdOfAp a)) (s.apBuffer a x n)
      ((mdTaps s.blk.md[mdOfAp a] s.blk.rb[rbOfMd (mdOfAp a)].wc x.length).getD n (.rat 0)) := by
  rw [State.apProc_viol, apRun, apLoop_viol]
  congr 1
  refine List.flatMap_congr fun n hn => ?_
  rw [rbReadViol_eq_rangeRecord, getD_mdTaps (List.mem_range.1 hn)]
  rfl

end

end Sys2Proof.Machine

namespace Sys2Proof.Claims

open Sys2Proof.Machine

/-- Settles O19: the rules of AP.PROC above, on the state with the record CV_OWNED. -/
theorem apProcReadsThenWrites : Obligations.ApProcReadsThenWrites := by
  unfold Obligations.ApProcReadsThenWrites
  intro s a l h0 hB hx hwf hcap
  have hlen : (s.args.xin0.take l).length = l := by simp [hx]
  generalize hu : s.log (ownedRecord s.rvRan (.apProc a)) = u
  have hexec : exec (.apProc a) s = .next (u.apProc a (s.args.xin0.take l)).done := by
    rw [exec_apProc, withOperand_of_ok (blockOperand_of_size h0 hB hx), hu]
  have hhost : KeepsHost s (u.apProc a (s.args.xin0.take l)) := hu ▸ ((KeepsHost.refl s).log _).apProc a _
  have hblk : u.blk = s.blk := by rw [← hu]; rfl
  have hcfg : u.cfg = s.cfg := by rw [← hu]; rfl
  have hviol : u.viol = s.viol ++ ownedRecord s.rvRan (.apProc a) := by rw [← hu]; rfl
  have howners : sameOwners s (u.apProc a (s.args.xin0.take l)) := by rw [← hu]; exact ⟨rfl, rfl⟩
  have hbuf := u.apProc_rb_same a (s.args.xin0.take l)
  have hphase := u.apProc_phase_val a (s.args.xin0.take l)
  have hrecords := u.apProc_records a (x := s.args.xin0.take l)
  have hfed : (u.apFed a (s.args.xin0.take l)).length = l := by rw [State.apFed_length, hlen]
  simp only [State.apBuffer, hblk, hcfg, hlen, hviol] at hbuf hphase hrecords
  refine ⟨_, u.apFed a (s.args.xin0.take l), mdTaps s.blk.md[mdOfAp a] s.blk.rb[rbOfMd (mdOfAp a)].wc l, hexec, hfed,
    mdTaps_length _ _ _, hbuf, ?cursor, ?samples, ?rest, ?kept, hphase, ?delay, ?allpass, ?allpasses, ?delays, ?buffers,
    ?block, sameOwners_done howners, hrecords, hhost.done⟩
  all_goals rw [State.done_blk]
  case cursor => rw [hbuf, rbWrite_foldl_wc, hfed]
  case samples =>
    intro n hn
    have hpos := u.apProc_position a (x := s.args.xin0.take l) (n := n) (by rwa [hlen])
    have hstored := u.sampleAt_apFed a (x := s.args.xin0.take l) (n := n) (by rwa [hlen])
    have hout := u.sampleAt_apProc_out a (x := s.args.xin0.take l) (n := n) (by rwa [hlen])
    simp only [State.apBuffer, hblk, hcfg, hlen, sampleAt_take hn] at hpos hstored hout
    exact ⟨hpos, hstored, hout⟩
  case rest =>
    intro n hn
    have hrest := u.apProc_out_rest a (s.args.xin0.take l) (n := n) (by rwa [hlen])
    rwa [hblk] at hrest
  case kept =>
    intro j hj
    rw [hbuf, memRead_rbWrite_foldl_of_not_mem hcap hwf (by rwa [hfed])]
  case delay => rw [State.apProc_md_same, hblk]; rfl
  case allpass => rw [State.apProc_ap_same, hblk]
  case allpasses =>
    intro k hk
    rw [State.apProc_ap_ne _ _ _ hk, hblk]
  case delays =>
    intro k hk
    rw [State.apProc_md_ne _ _ _ hk, hblk]
  case buffers =>
    intro k hk
    rw [State.apProc_rb_ne _ _ _ hk, hblk]
  case block => rw [State.apProc_blk, hblk]

/-- Settles O22: every position lies between the oldest sample kept and the newest, at its own time. -/
theorem allpassWindowSuffices : Obligations.AllpassWindowSuffices := by
  unfold Obligations.AllpassWindowSuffices
  rintro s a x ⟨hnear, hfar⟩
  rw [State.apProc_viol, apRun, apLoop_viol, List.append_right_eq_self, List.flatMap_eq_nil_iff]
  intro n hn
  have hbefore : n ≤ x.length := (List.mem_range.1 hn).le
  rw [rbReadViol, if_pos]
  rw [inWindow_iff, rbWrite_foldl_wc, List.length_take_of_le (by simpa using hbefore)]
  refine ModDelay.tap_between ?oldest ?newest
  all_goals
    simp only [ModDelay.advance_delaySamples, ModDelay.advance_modAmount]
    push_cast
    linarith

end Sys2Proof.Claims

/-! The allpass with a fixed delay (42_modulated_allpass.md section 3). At depth 0 the value read is the sample fed `D` places
earlier, so the samples fed and the outputs satisfy two linear equations; the recurrence and the impulse response follow from
these. From any state, block boundaries are invisible in value: buffers that hold the same numbers give the same numbers. -/

namespace Sys2Proof.Machine

open Sys2Proof.Claims

/-! ## The delayed sample of a buffer that has taken a stream since reset -/

/-- The sample `d` places back, before the next one is written, for `1 ≤ d ≤ N`. -/
theorem memRead_rbWrite_foldl_back {p : Params} {r : Fin 25} {u : List NUM} {d : Nat} (hq : p.quant = .identity)
    (hd : 1 ≤ d) (hcap : d ≤ p.rbCap[r]) :
    (memRead (u.foldl (rbWrite p r) ⟨0, []⟩) (slotOf p.rbCap[r] (u.length - d))).val = delayedSample d u u.length := by
  obtain hzero | hpos := Nat.eq_zero_or_pos u.length
  · rw [List.eq_nil_of_length_eq_zero hzero, delayedSample, if_neg (by simp; omega)]
    simp [memRead, Memory.read]
  · have hlast := memRead_rbWrite_foldl_reset (p := p) (r := r) (x := u) (d := d - 1) (t := u.length - 1) hq (by omega)
      (by omega)
    have hslot : ((u.length - 1 : Nat) : Int) - (d - 1 : Nat) = u.length - d := by omega
    rw [hslot] at hlast
    rw [hlast, delayedSample, delayedSample]
    congr 1
    · simp only [eq_iff_iff]; omega
    · congr 1; omega

/-- The delayed stream looks at least one place back. -/
theorem delayedSample_take {d t : Nat} {u : List NUM} (hd : 1 ≤ d) (n : Nat) (ht : t ≤ n) :
    delayedSample d (u.take n) t = delayedSample d u t := by
  unfold delayedSample
  split
  · rw [sampleAt_take (by omega)]
  · rfl

/-! ## The state of a fixed-delay allpass after a stream -/

/-- `AP[a]` has delay `d`, depth 0 and feedback `g`; since reset it has been fed the samples `u` while it processed `x`. -/
structure AllpassStream (s : State) (a : Fin 20) (d : Nat) (g : NUM) (x u : List NUM) : Prop where
  quant : s.cfg.quant = .identity
  cap : d ≤ s.cfg.rbCap[rbOfMd (mdOfAp a)]
  buf : s.blk.rb[rbOfMd (mdOfAp a)] = u.foldl (rbWrite s.cfg (rbOfMd (mdOfAp a))) ⟨0, []⟩
  delay : s.blk.md[mdOfAp a].delaySamples = d
  depth : s.blk.md[mdOfAp a].modAmount.val = 0
  fb : s.blk.ap[a].fb = g
  length : u.length = x.length

theorem fixedAllpass_stream {p : Params} (a : Fin 20) (d : Nat) (rate : NUM) {depth : NUM} (interp : Bool) (g : NUM)
    (hq : p.quant = .identity) (hcap : d ≤ p.rbCap[rbOfMd (mdOfAp a)]) (hdepth : depth.val = 0) :
    AllpassStream (fixedAllpass p a d rate depth interp g) a d g [] [] where
  quant := hq
  cap := hcap
  buf := State.resetWith_rb p (rbOfMd (mdOfAp a))
  delay := by simp [fixedAllpass, ModDelay.setParams]
  depth := by simpa [fixedAllpass, ModDelay.setParams] using hdepth
  fb := by simp [fixedAllpass]
  length := rfl

section
variable {s : State} {a : Fin 20} {d : Nat} {g : NUM} {h u : List NUM}

theorem AllpassStream.apProc (hs : AllpassStream s a d g h u) (x : List NUM) :
    AllpassStream (s.apProc a x) a d g (h ++ x) (u ++ s.apFed a x) where
  quant := hs.quant
  cap := hs.cap
  buf := by rw [State.apProc_rb_same, hs.buf, List.foldl_append]; rfl
  delay := by rw [State.apProc_md_same]; exact hs.delay
  depth := by rw [State.apProc_md_same]; exact hs.depth
  fb := by rw [State.apProc_ap_same]; exact hs.fb
  length := by rw [List.length_append, List.length_append, hs.length, State.apFed_length]

/-- At depth 0 the value read for a sample is the one fed `d` places earlier. -/
theorem AllpassStream.val_apRead (hs : AllpassStream s a d g h u) (hd : 1 ≤ d) {x : List NUM} {n : Nat} (hn : n < x.length) :
    (apRead s.cfg (rbOfMd (mdOfAp a)) (s.blk.md[mdOfAp a].advance x.length) s.blk.ap[a].fb
      s.blk.rb[rbOfMd (mdOfAp a)] x n).val = delayedSample d (u ++ s.apFed a x) (h.length + n) := by
  have hwc : s.blk.rb[rbOfMd (mdOfAp a)].wc = u.length := by rw [hs.buf, rbWrite_foldl_wc, Nat.zero_add]
  have hpos := ModDelay.val_tap_of_modAmount_zero (d := s.blk.md[mdOfAp a].advance x.length) hs.depth (u.length + n)
  rw [ModDelay.advance_delaySamples, hs.delay] at hpos
  have hbuf : ((s.apFed a x).take n).foldl (rbWrite s.cfg (rbOfMd (mdOfAp a))) s.blk.rb[rbOfMd (mdOfAp a)] =
      ((u ++ s.apFed a x).take (u.length + n)).foldl (rbWrite s.cfg (rbOfMd (mdOfAp a))) ⟨0, []⟩ := by
    rw [hs.buf, List.take_length_add_append, List.foldl_append]
  have htaken : ((u ++ s.apFed a x).take (u.length + n)).length = u.length + n := by simp; omega
  have hback := memRead_rbWrite_foldl_back (p := s.cfg) (r := rbOfMd (mdOfAp a)) (d := d)
    (u := (u ++ s.apFed a x).take (u.length + n)) hs.quant hd hs.cap
  rw [htaken, delayedSample_take hd _ le_rfl, ← hbuf] at hback
  rw [apRead, hwc, rbRead_ofInt _ _ _ hpos, ← hs.length]
  exact hback

end

/-! ## The two equations of a stream -/

/-- What a stream `x` through the allpass comes to: the samples fed `u` and the outputs `y` (42_modulated_allpass.md R123, R125). -/
structure AllpassEquations (f : ApForm) (d : Nat) (g : ℝ) (x u y : List NUM) : Prop where
  fed : ∀ n < x.length, sampleAt u n = sampleAt x n + g * delayedSample d u n
  out : ∀ n < x.length, sampleAt y n = delayedSample d u n - g * (if f = .schroeder then sampleAt u n else sampleAt x n)

theorem sampleAt_append_add (x y : List NUM) (n : Nat) : sampleAt (x ++ y) (x.length + n) = sampleAt y n := by
  rw [sampleAt_append_right (Nat.le_add_right _ _), Nat.add_sub_cancel_left]

/-- What holds of the places of a first block and of those of a second holds of all places. -/
theorem forall_place_append {P : Nat → Prop} {x y : List NUM} (hx : ∀ n < x.length, P n)
    (hy : ∀ n < y.length, P (x.length + n)) : ∀ n < (x ++ y).length, P n := by
  intro n hn
  rw [List.length_append] at hn
  by_cases hold : n < x.length
  · exact hx n hold
  · have hnew := hy (n - x.length) (by omega)
    rwa [Nat.add_sub_cancel' (by omega)] at hnew

section
variable {s : State} {a : Fin 20} {d : Nat} {g : NUM} {h u y : List NUM}

/-- One more block: the equations go on to hold (`d ≥ 1`, so no sample depends on a later one). -/
theorem AllpassStream.equations_apProc (hd : 1 ≤ d) (hs : AllpassStream s a d g h u) (hy : y.length = h.length)
    (he : AllpassEquations s.cfg.apForm d g.val h u y) (x : List NUM) :
    AllpassEquations s.cfg.apForm d g.val (h ++ x) (u ++ s.apFed a x) (y ++ (apRun s a x).out) := by
  have hread {n : Nat} (hn : n < x.length) := hs.val_apRead hd hn
  have hu (n : Nat) : sampleAt (u ++ s.apFed a x) (h.length + n) = sampleAt (s.apFed a x) n := by
    rw [← hs.length, sampleAt_append_add]
  have hold {n : Nat} (hn : n < h.length) : sampleAt (h ++ x) n = sampleAt h n ∧
      sampleAt (u ++ s.apFed a x) n = sampleAt u n ∧ sampleAt (y ++ (apRun s a x).out) n = sampleAt y n ∧
      delayedSample d (u ++ s.apFed a x) n = delayedSample d u n := by
    have hnu : n < u.length := by rwa [hs.length]
    exact ⟨sampleAt_append_left hn, sampleAt_append_left hnu, sampleAt_append_left (by rwa [hy]),
      delayedSample_append_left hnu⟩
  refine ⟨forall_place_append (fun n hn => ?_) fun n hn => ?_, forall_place_append (fun n hn => ?_) fun n hn => ?_⟩
  · obtain ⟨hx, hu, -, hdelayed⟩ := hold hn
    rw [hx, hu, hdelayed, he.fed n hn]
  · rw [hu, sampleAt_append_add, ← hread hn, State.apFed, Machine.sampleAt_apFed _ _ _ _ hn, hs.fb]
  · obtain ⟨hx, hu, hy, hdelayed⟩ := hold hn
    rw [hx, hu, hy, hdelayed, he.out n hn]
  · rw [hu, ← hy, sampleAt_append_add, hy, sampleAt_append_add, ← hread hn, apRun, sampleAt_apLoop_out _ _ _ _ hn, State.apFed,
      hs.fb]

/-- The equations for all blocks of a stream, from any point of it on. -/
theorem AllpassStream.equations (hd : 1 ≤ d) (hs : AllpassStream s a d g h u) (hy : y.length = h.length)
    (he : AllpassEquations s.cfg.apForm d g.val h u y) (blocks : List (List NUM)) :
    ∃ v, AllpassEquations s.cfg.apForm d g.val (h ++ blocks.flatten) v (y ++ apStream a s blocks) := by
  induction blocks generalizing s h u y with
  | nil => exact ⟨u, by simpa [apStream] using he⟩
  | cons x rest ih =>
    have hrest := ih (hs.apProc x) (by simp [hy]) (hs.equations_apProc hd hy he x)
    rwa [List.append_assoc, List.append_assoc, ← List.flatten_cons, ← State.apProc_out_take] at hrest

end

/-- The equations of a stream through the allpass from reset (42_modulated_allpass.md R125). -/
theorem fixedAllpass_equations {p : Params} {a : Fin 20} {d : Nat} {rate depth : NUM} {interp : Bool} {g : NUM}
    (hq : p.quant = .identity) (hd : 1 ≤ d) (hcap : d ≤ p.rbCap[rbOfMd (mdOfAp a)]) (hdepth : depth.val = 0)
    (blocks : List (List NUM)) : ∃ u, AllpassEquations p.apForm d g.val blocks.flatten u
      (apStream a (fixedAllpass p a d rate depth interp g) blocks) := by
  have hreset := fixedAllpass_stream a d rate interp g hq hcap hdepth
  have hnone : AllpassEquations p.apForm d g.val [] [] [] := ⟨fun n hn => absurd hn (by simp), fun n hn => absurd hn (by simp)⟩
  exact hreset.equations hd rfl hnone blocks

section
variable {f : ApForm} {d : Nat} {g : ℝ} {x u y : List NUM}

/-- The recurrence of 42_modulated_allpass.md section 3, in both forms: the samples fed are eliminated. -/
theorem AllpassEquations.recurrence (h : AllpassEquations f d g x u y) {n : Nat} (hn : n < x.length) :
    sampleAt y n = -g * sampleAt x n + (if d ≤ n then
      (if f = .schroeder then 1 else 1 + g * g) * sampleAt x (n - d) + g * sampleAt y (n - d) else 0) := by
  have hfed := h.fed n hn
  have hout := h.out n hn
  by_cases hdn : d ≤ n
  · have hback : n - d < x.length := by omega
    have hdelayed : delayedSample d u n = sampleAt u (n - d) := if_pos hdn
    have hfed' := h.fed (n - d) hback
    have hout' := h.out (n - d) hback
    rw [hdelayed] at hfed hout
    rw [if_pos hdn, hout, hout']
    cases f
    · simp only [if_true]
      rw [hfed, hfed']
      ring
    · simp only [reduceCtorEq, if_false]
      rw [hfed']
      ring
  · have hdelayed : delayedSample d u n = 0 := if_neg hdn
    rw [hdelayed] at hfed hout
    rw [if_neg hdn, hout]
    cases f
    · simp only [if_true]
      rw [hfed]
      ring
    · simp only [reduceCtorEq, if_false]
      ring

end

/-! ## Buffers that hold the same numbers -/

/-- Two storages that list the same slots with the same numbers. -/
def Memory.SameNumbers (m k : Memory) : Prop := List.Forall₂ (fun u v => u.1 = v.1 ∧ u.2.val = v.2.val) m k

/-- Two buffers with one cursor whose storages hold the same numbers. -/
def SameNumbers (b c : RingBuf) : Prop := b.wc = c.wc ∧ Memory.SameNumbers b.data c.data

theorem SameNumbers.refl (b : RingBuf) : SameNumbers b b := ⟨rfl, List.forall₂_same.2 fun _ _ => ⟨rfl, rfl⟩⟩

theorem isZero_congr {v w : NUM} (h : v.val = w.val) : v.isZero = w.isZero := by
  rw [Bool.eq_iff_iff, NUM.isZero_iff, NUM.isZero_iff, h]

/-- `Qs` is a function of the number (assumption 11). -/
theorem quantise_congr (q : Quantiser) {v w : NUM} (h : v.val = w.val) : (quantise q v).val = (quantise q w).val := by
  cases q with
  | identity => exact h
  | free n => rw [quantise, quantise, NUM.digits_congr h]

theorem Memory.SameNumbers.val_read {m k : Memory} (h : Memory.SameNumbers m k) (i : Nat) :
    (Memory.read i m).val = (Memory.read i k).val := by
  induction h with
  | nil => rfl
  | @cons u v _ _ hc _ ih =>
    obtain ⟨j, x⟩ := u
    obtain ⟨_, y⟩ := v
    obtain ⟨rfl, hval⟩ := hc
    rw [Memory.read, Memory.read]
    split
    · exact hval
    · exact ih

theorem Memory.SameNumbers.write {m k : Memory} (h : Memory.SameNumbers m k) (i : Nat) {v w : NUM} (hv : v.val = w.val) :
    Memory.SameNumbers (Memory.write i v m) (Memory.write i w k) := by
  induction h with
  | nil =>
    rw [Memory.write, Memory.write, isZero_congr hv]
    split
    · exact .nil
    · exact .cons ⟨rfl, hv⟩ .nil
  | @cons u u' _ _ hc hrest ih =>
    obtain ⟨j, x⟩ := u
    obtain ⟨_, y⟩ := u'
    obtain ⟨rfl, hval⟩ := hc
    have hhead : List.Forall₂ _ ((j, x) :: _) ((j, y) :: _) := .cons ⟨rfl, hval⟩ hrest
    rw [Memory.write, Memory.write, isZero_congr hv]
    split_ifs
    · exact hhead
    · exact .cons ⟨rfl, hv⟩ hhead
    · exact hrest
    · exact .cons ⟨rfl, hv⟩ hrest
    · exact .cons ⟨rfl, hval⟩ ih

section
variable {p : Params} {r : Fin 25} {b c : RingBuf}

theorem SameNumbers.rbWrite (h : SameNumbers b c) {v w : NUM} (hv : v.val = w.val) :
    SameNumbers (rbWrite p r b v) (rbWrite p r c w) := by
  obtain ⟨hwc, hdata⟩ := h
  refine ⟨by rw [rbWrite_wc, rbWrite_wc, hwc], ?_⟩
  rw [rbWrite_data, rbWrite_data, hwc]
  exact hdata.write _ (quantise_congr _ hv)

theorem SameNumbers.val_rbRead (h : SameNumbers b c) {v w : NUM} (hv : v.val = w.val) :
    (rbRead p r b v).val = (rbRead p r c w).val := by
  rw [Machine.val_rbRead, Machine.val_rbRead, hv, memRead, memRead, memRead, memRead, h.2.val_read,
    h.2.val_read]

/-- The sample loop at depth 0 on buffers that hold the same numbers, whatever the phases and the rounding: the same numbers come
out and are left in the buffers. -/
theorem apLoop_congr {m k : ModDelay} (hm : m.modAmount.val = 0) (hk : k.modAmount.val = 0)
    (hdelay : m.delaySamples = k.delaySamples) (g : NUM) (h : SameNumbers b c) (x : List NUM) :
    numbers (apLoop p r m g b x).out = numbers (apLoop p r k g c x).out ∧
      SameNumbers (apLoop p r m g b x).buf (apLoop p r k g c x).buf := by
  induction x generalizing b c with
  | nil => exact ⟨rfl, h⟩
  | cons v x ih =>
    have htap : (m.tap b.wc).val = (k.tap c.wc).val := by
      rw [ModDelay.val_tap_of_modAmount_zero hm, ModDelay.val_tap_of_modAmount_zero hk, h.1, hdelay]
    have hread := h.val_rbRead (p := p) (r := r) htap
    have hfed : (v.add (g.mul (rbRead p r b (m.tap b.wc)))).val = (v.add (g.mul (rbRead p r c (k.tap c.wc)))).val := by
      rw [NUM.val_add, NUM.val_add, NUM.val_mul, NUM.val_mul, hread]
    obtain ⟨hout, hbuf⟩ := ih (h.rbWrite hfed)
    refine ⟨?_, hbuf⟩
    rw [apLoop, apLoop]
    simp only [numbers, List.map_cons] at hout ⊢
    rw [hout, val_apOutput, val_apOutput, hread, hfed]

/-- Block boundaries are invisible: a stream in blocks comes to one block on any buffer with the same numbers and any delay with
the same length and depth 0. -/
theorem apStream_numbers {s : State} {a : Fin 20} {m : ModDelay} (hs : s.blk.md[mdOfAp a].modAmount.val = 0)
    (hm : m.modAmount.val = 0) (hdelay : s.blk.md[mdOfAp a].delaySamples = m.delaySamples)
    (hb : SameNumbers s.blk.rb[rbOfMd (mdOfAp a)] b) (blocks : List (List NUM)) : numbers (apStream a s blocks) =
      numbers (apLoop s.cfg (rbOfMd (mdOfAp a)) m s.blk.ap[a].fb b blocks.flatten).out := by
  induction blocks generalizing s b with
  | nil => rfl
  | cons x rest ih =>
    obtain ⟨hout, hbuf⟩ := apLoop_congr (p := s.cfg) (r := rbOfMd (mdOfAp a)) (m := s.blk.md[mdOfAp a].advance x.length)
      (k := m) hs hm hdelay s.blk.ap[a].fb hb x
    have hrest := ih (s := s.apProc a x)
      (b := (apLoop s.cfg (rbOfMd (mdOfAp a)) m s.blk.ap[a].fb b x).buf) (by rw [State.apProc_md_same]; exact hs)
      (by rw [State.apProc_md_same]; exact hdelay) (by rw [State.apProc_rb, getElem_fin_set_self]; exact hbuf)
    rw [State.apProc_ap_same] at hrest
    rw [apStream, List.flatten_cons, apLoop_append, State.apProc_out_take]
    simp only [numbers, List.map_append] at hout hrest ⊢
    rw [hrest, apRun, hout]
    rfl

end

end Sys2Proof.Machine

namespace Sys2Proof.Claims

open Sys2Proof.Machine

/-- Settles O20: the recurrence is that of the two equations; the blocks and the one block run the same loop at depth 0. -/
theorem allpassRecurrence : Obligations.AllpassRecurrence := by
  unfold Obligations.AllpassRecurrence
  refine ⟨fun p a g d rate depth interp blocks n hq hd hcap hdepth hn => ?recurrence, fun s a blocks hs => ?boundaries⟩
  case recurrence =>
    obtain ⟨u, hu⟩ := fixedAllpass_equations (rate := rate) (interp := interp) (g := g) hq hd hcap hdepth blocks
    exact hu.recurrence hn
  case boundaries =>
    rw [State.apProc_out_take]
    exact apStream_numbers (m := s.blk.md[mdOfAp a].advance blocks.flatten.length) hs hs rfl (.refl _) blocks

/-- The response to an impulse follows from the recurrence alone: it is fed back once every `d` samples. -/
theorem impulse_of_recurrence {c g : ℝ} {d l : Nat} {x y : Nat → ℝ} (hd : 1 ≤ d) (hx0 : x 0 = 1)
    (hx : ∀ n, 0 < n → n ≤ l → x n = 0)
    (hy : ∀ n ≤ l, y n = -g * x n + (if d ≤ n then c * x (n - d) + g * y (n - d) else 0)) {n : Nat} (hn : n ≤ l) :
    y n = if n = 0 then -g else if d ∣ n then (c - g * g) * g ^ (n / d - 1) else 0 := by
  induction n using Nat.strong_induction_on with
  | _ n ih =>
    rw [hy n hn]
    obtain rfl | hpos := Nat.eq_zero_or_pos n
    · rw [if_neg (by omega), if_pos rfl, hx0]
      ring
    · rw [hx n hpos hn, if_neg hpos.ne']
      by_cases hdn : d ≤ n
      · rw [if_pos hdn, ih (n - d) (by omega) (by omega)]
        obtain rfl | hlt := hdn.eq_or_lt
        · rw [Nat.sub_self, hx0, if_pos rfl, if_pos dvd_rfl, Nat.div_self hd, Nat.sub_self, pow_zero]
          ring
        · rw [hx (n - d) (by omega) (by omega), if_neg (by omega : ¬ n - d = 0)]
          have hdvd : d ∣ n - d ↔ d ∣ n :=
            ⟨fun h => by simpa [Nat.sub_add_cancel hdn] using Nat.dvd_add h (dvd_refl d), fun h => Nat.dvd_sub h (dvd_refl d)⟩
          by_cases hmul : d ∣ n
          · rw [if_pos (hdvd.2 hmul), if_pos hmul]
            obtain ⟨k, rfl⟩ := hmul
            have hk : 2 ≤ k := by
              by_contra hk
              interval_cases k <;> omega
            rw [show d * k - d = d * (k - 1) by rw [Nat.mul_sub, Nat.mul_one], Nat.mul_div_cancel_left _ hd,
              Nat.mul_div_cancel_left _ hd, show k - 1 = k - 1 - 1 + 1 by omega, pow_succ]
            simp only [Nat.add_sub_cancel]
            ring
          · rw [if_neg (fun h => hmul (hdvd.1 h)), if_neg hmul]
            ring
      · have hndvd : ¬ d ∣ n := fun h => hdn (Nat.le_of_dvd hpos h)
        rw [if_neg hdn, if_neg hndvd]
        ring

/-- An impulse, place by place. -/
theorem sampleAt_impulse {x : List NUM} {l : Nat} (h : numbers x = 1 :: List.replicate l 0) :
    x.length = l + 1 ∧ sampleAt x 0 = 1 ∧ ∀ n, 0 < n → n ≤ l → sampleAt x n = 0 := by
  have hlen : x.length = l + 1 := by
    have := congrArg List.length h
    simpa [numbers] using this
  have hplace (n : Nat) (hn : n ≤ l) : sampleAt x n = (1 :: List.replicate l 0 : List ℝ)[n]'(by simp; omega) := by
    rw [sampleAt, List.getD_eq_getElem _ _ (by omega)]
    simp only [← h, numbers, List.getElem_map]
  refine ⟨hlen, hplace 0 (Nat.zero_le _), fun n hpos hn => ?_⟩
  obtain ⟨k, rfl⟩ := Nat.exists_eq_succ_of_ne_zero hpos.ne'
  rw [hplace _ hn]
  simp

/-- Settles O21: the recurrence of O20 fed with an impulse. -/
theorem allpassImpulseResponse : Obligations.AllpassImpulseResponse := by
  unfold Obligations.AllpassImpulseResponse
  intro p a g d l n rate depth interp blocks hq hd hcap hdepth himpulse hn
  obtain ⟨hlen, hx0, hx⟩ := sampleAt_impulse himpulse
  obtain ⟨u, hu⟩ := fixedAllpass_equations (rate := rate) (interp := interp) (g := g) hq hd hcap hdepth blocks
  rw [impulse_of_recurrence hd hx0 hx (fun k hk => hu.recurrence (by omega)) hn]
  cases p.apForm
  · simp
  · have hgain : 1 + g.val * g.val - g.val * g.val = 1 := by ring
    simp [hgain]

end Sys2Proof.Claims

/-! Biquad filters (43_biquad.md sections 2 to 4): the sample loop as the difference equation over the carried history, the
first-order designs, and the default design as real formulas. -/

namespace Sys2Proof.Machine

open Sys2Proof.Claims

/-! ## The difference equation -/

/-- Up to two places back, a stream after its first sample is the stream with that sample in its history. -/
theorem delayed_cons_succ (h1 h2 v : NUM) (z : List NUM) {n k : Nat} (hk : k ≤ n + 2) :
    delayed h1 h2 (v :: z) (n + 1) k = delayed v h1 z n k := by
  unfold delayed
  by_cases hin : k ≤ n
  · rw [if_pos (by omega), if_pos hin, Nat.sub_add_comm hin, List.getD_cons_succ]
  · rw [if_neg hin]
    by_cases hfirst : k = n + 1
    · rw [if_pos (by omega), if_pos hfirst, hfirst, Nat.sub_self, List.getD_cons_zero]
    · rw [if_neg (by omega), if_pos (by omega), if_neg hfirst]

theorem delayed_zero_one (h1 h2 : NUM) (z : List NUM) : delayed h1 h2 z 0 1 = h1 := rfl

theorem delayed_zero_two (h1 h2 : NUM) (z : List NUM) : delayed h1 h2 z 0 2 = h2 := rfl

theorem Biquad.val_output (f : Biquad) (x : NUM) : (f.output x).val = f.coeffs.b0.val * x.val + f.coeffs.b1.val * f.x1.val +
    f.coeffs.b2.val * f.x2.val - f.coeffs.a1.val * f.y1.val - f.coeffs.a2.val * f.y2.val := by simp [Biquad.output]

/-- Every output sample satisfies the difference equation over the history before the block (43_biquad.md R135). -/
theorem sampleAt_bqLoop (f : Biquad) (x : List NUM) {n : Nat} (hn : n < x.length) :
    sampleAt (bqLoop f x).2 n = f.coeffs.b0.val * sampleAt x n + f.coeffs.b1.val * (delayed f.x1 f.x2 x n 1).val +
      f.coeffs.b2.val * (delayed f.x1 f.x2 x n 2).val - f.coeffs.a1.val * (delayed f.y1 f.y2 (bqLoop f x).2 n 1).val -
      f.coeffs.a2.val * (delayed f.y1 f.y2 (bqLoop f x).2 n 2).val := by
  induction x generalizing f n with
  | nil => cases hn
  | cons v x ih =>
    rw [bqLoop]
    cases n with
    | zero => simp only [sampleAt_cons_zero, Biquad.val_output, delayed_zero_one, delayed_zero_two]
    | succ n =>
      have hrest := ih (f.shift v (f.output v)) (Nat.lt_of_succ_lt_succ hn)
      have hone {h1 h2 w : NUM} {z : List NUM} := delayed_cons_succ h1 h2 w z (n := n) (k := 1) (by omega)
      have htwo {h1 h2 w : NUM} {z : List NUM} := delayed_cons_succ h1 h2 w z (n := n) (k := 2) (by omega)
      rw [hone, htwo, hone, htwo]
      exact hrest

/-- The history after a block ends with its last two inputs and outputs (43_biquad.md R135). -/
theorem bqLoop_history (f : Biquad) (x : List NUM) : (bqLoop f x).1 = { f with
    x1 := delayed f.x1 f.x2 x x.length 1, x2 := delayed f.x1 f.x2 x x.length 2
    y1 := delayed f.y1 f.y2 (bqLoop f x).2 x.length 1, y2 := delayed f.y1 f.y2 (bqLoop f x).2 x.length 2 } := by
  induction x generalizing f with
  | nil => rfl
  | cons v x ih =>
    rw [bqLoop, List.length_cons, delayed_cons_succ _ _ _ _ (by omega), delayed_cons_succ _ _ _ _ (by omega),
      delayed_cons_succ _ _ _ _ (by omega), delayed_cons_succ _ _ _ _ (by omega)]
    exact ih (f.shift v (f.output v))

/-! ## First-order designs -/

theorem designCoeffs_firstOrder (d : Design) {t : FilterType} (ht : t.isFirstOrder = true) (freq fs : NUM) :
    (designCoeffs d t freq fs).b2.val = 0 ∧ (designCoeffs d t freq fs).a2.val = 0 := by
  cases d with
  | default =>
    cases t with
    | lowPass6 | highPass6 => simp [designCoeffs, defaultDesign]
    | lowPass12 | highPass12 => exact absurd ht (by decide)
  | pass => simp [designCoeffs]
  | free n => simp [designCoeffs, ht]

/-- Without second-order coefficients the older history does not show in the outputs. -/
theorem numbers_bqLoop_firstOrder {f g : Biquad} (hb2 : f.coeffs.b2.val = 0) (ha2 : f.coeffs.a2.val = 0)
    (hcoeffs : g.coeffs = f.coeffs) (hx1 : g.x1.val = f.x1.val) (hy1 : g.y1.val = f.y1.val) (x : List NUM) :
    numbers (bqLoop g x).2 = numbers (bqLoop f x).2 := by
  induction x generalizing f g with
  | nil => rfl
  | cons v x ih =>
    have hout : (g.output v).val = (f.output v).val := by
      rw [Biquad.val_output, Biquad.val_output, hcoeffs, hx1, hy1, hb2, ha2, zero_mul, zero_mul, zero_mul, zero_mul]
    have hrest := ih (f := f.shift v (f.output v)) (g := g.shift v (g.output v)) hb2 ha2 hcoeffs rfl hout
    rw [bqLoop, bqLoop]
    simp only [numbers, List.map_cons] at hrest ⊢
    rw [hout, hrest]

/-! ## The default design -/

/-- `alpha = sin(w)/(2·Q)` with `Q = 1/sqrt(2)` (43_biquad.md R137). -/
noncomputable def designAlpha (w : ℝ) : ℝ := Real.sin w / (2 * (1 / √2))

/-- `a0 = 1 + alpha` is positive at every frequency: `alpha` is at least `−sqrt(2)/2`. -/
theorem designA0_pos (w : ℝ) : 0 < 1 + designAlpha w := by
  have hroot : √2 < 2 := by
    rw [Real.sqrt_lt' (by norm_num)]; norm_num
  have hpos : 0 < √2 := by positivity
  have halpha : designAlpha w = Real.sin w * (√2 / 2) := by
    unfold designAlpha
    field_simp
  rw [halpha]
  nlinarith [Real.neg_one_le_sin w]

section
variable (f fs : NUM)

/-- `w = 2·PI·f/fs`. -/
noncomputable def designAngle : ℝ := 2 * Real.pi * (f.val / fs.val)

theorem val_designAlpha : ((f.div fs).sinTurns.div ((NUM.rat 2).mul ((NUM.rat 1).div (NUM.rat 2).sqrt))).val =
    designAlpha (designAngle f fs) := by
  rw [designAlpha, designAngle, NUM.val_div, NUM.val_sinTurns, NUM.val_div, NUM.val_mul, NUM.val_div,
    NUM.val_sqrt (by simp)]
  simp

/-- The five numbers of a set of coefficients, `b0, b1, b2, a1, a2`. -/
noncomputable def Coeffs.values (c : Coeffs) : List ℝ := [c.b0.val, c.b1.val, c.b2.val, c.a1.val, c.a2.val]

theorem values_lowPass12 : let w := designAngle f fs
    Coeffs.values (defaultDesign .lowPass12 f fs) = [(1 - Real.cos w) / 2 / (1 + designAlpha w),
      (1 - Real.cos w) / (1 + designAlpha w), (1 - Real.cos w) / 2 / (1 + designAlpha w),
      -2 * Real.cos w / (1 + designAlpha w), (1 - designAlpha w) / (1 + designAlpha w)] := by
  simp only [Coeffs.values, defaultDesign, NUM.val_div, NUM.val_add, NUM.val_sub, NUM.val_mul, ← val_designAlpha]
  simp [designAngle]

theorem values_highPass12 : let w := designAngle f fs
    Coeffs.values (defaultDesign .highPass12 f fs) = [(1 + Real.cos w) / 2 / (1 + designAlpha w),
      -(1 + Real.cos w) / (1 + designAlpha w), (1 + Real.cos w) / 2 / (1 + designAlpha w),
      -2 * Real.cos w / (1 + designAlpha w), (1 - designAlpha w) / (1 + designAlpha w)] := by
  simp only [Coeffs.values, defaultDesign, NUM.val_div, NUM.val_add, NUM.val_sub, NUM.val_mul, ← val_designAlpha]
  simp [designAngle]

theorem values_lowPass6 : Coeffs.values (defaultDesign .lowPass6 f fs) =
    [1 - Real.exp (-designAngle f fs), 0, 0, -Real.exp (-designAngle f fs), 0] := by
  simp [Coeffs.values, defaultDesign, designAngle]

theorem values_highPass6 : Coeffs.values (defaultDesign .highPass6 f fs) =
    [(1 + Real.exp (-designAngle f fs)) / 2, -(1 + Real.exp (-designAngle f fs)) / 2, 0, -Real.exp (-designAngle f fs), 0] := by
  simp [Coeffs.values, defaultDesign, designAngle]

end

/-- The gain of the numerator and of the denominator at DC and at `fs/2`, from the five numbers. -/
theorem gains_of_values {c : Coeffs} {b0 b1 b2 a1 a2 : ℝ} (h : Coeffs.values c = [b0, b1, b2, a1, a2]) :
    c.b0.val = b0 ∧ c.b1.val = b1 ∧ c.b2.val = b2 ∧ c.a1.val = a1 ∧ c.a2.val = a2 := by
  simpa [Coeffs.values] using h

/-- At `f = fs/2` the low-pass has the coefficients (1, 2, 1, 2, 1). -/
theorem values_lowPass12_nyquist {f fs : NUM} (hfs : 0 < fs.val) (hf : f.val = fs.val / 2) :
    Coeffs.values (defaultDesign .lowPass12 f fs) = [1, 2, 1, 2, 1] := by
  have hangle : designAngle f fs = Real.pi := by
    rw [designAngle, hf]
    field_simp
  rw [values_lowPass12, hangle, designAlpha, Real.sin_pi, Real.cos_pi]
  norm_num

/-- A filter with these coefficients and the same numbers in both histories passes every sample on unchanged. -/
theorem numbers_bqLoop_identity {f : Biquad} (hc : Coeffs.values f.coeffs = [1, 2, 1, 2, 1]) (h1 : f.x1.val = f.y1.val)
    (h2 : f.x2.val = f.y2.val) (x : List NUM) : numbers (bqLoop f x).2 = numbers x := by
  induction x generalizing f with
  | nil => rfl
  | cons v x ih =>
    obtain ⟨hb0, hb1, hb2, ha1, ha2⟩ := gains_of_values hc
    have hout : (f.output v).val = v.val := by
      rw [Biquad.val_output, hb0, hb1, hb2, ha1, ha2, h1, h2]
      ring
    have hrest := ih (f := f.shift v (f.output v)) hc hout.symm h1
    rw [bqLoop]
    simp only [numbers, List.map_cons] at hrest ⊢
    rw [hout, hrest]

end Sys2Proof.Machine

namespace Sys2Proof.Claims

open Sys2Proof.Machine

/-- Settles O25: outputs and history are those of the sample loop; BQ.PROC writes its filter and the record. -/
theorem bqProcSatisfiesTheDifferenceEquation : Obligations.BqProcSatisfiesTheDifferenceEquation := by
  unfold Obligations.BqProcSatisfiesTheDifferenceEquation
  intro s q l h0 hB hx
  have hlen : (s.args.xin0.take l).length = l := by simp [hx]
  have hhistory := bqLoop_history s.blk.bq[q] (s.args.xin0.take l)
  rw [hlen] at hhistory
  refine ⟨_, (bqLoop s.blk.bq[q] (s.args.xin0.take l)).2,
    (exec_bqProc s q).trans (congrArg _ (withOperand_of_ok (blockOperand_of_size h0 hB hx))), by rw [bqLoop_length, hlen],
    fun n hn => sampleAt_bqLoop _ _ (by rwa [hlen]), ?history, fun k hk => getElem_fin_set_ne hk, rfl, ⟨rfl, rfl⟩, ?records,
    (((KeepsHost.refl s).log _).bqProc q _).answer _ _ _⟩
  case history => exact (getElem_fin_set_self _ _ _).trans hhistory
  case records =>
    rw [State.answer_viol, State.bqProc_viol, bqViol_eq]
    rfl

/-- Settles O28: every design of a 6 dB type has no second-order coefficients. -/
theorem sixDbTypesAreFirstOrder : Obligations.SixDbTypesAreFirstOrder := by
  unfold Obligations.SixDbTypesAreFirstOrder
  intro d f t v w x ht g
  obtain ⟨hb2, ha2⟩ := designCoeffs_firstOrder d ht f.freq f.fs
  exact ⟨hb2, ha2, numbers_bqLoop_firstOrder (f := g) (g := { g with x2 := v, y2 := w }) hb2 ha2 rfl rfl rfl x⟩

/-- Settles O29: at `fs/2` the coefficients are (1, 2, 1, 2, 1), which pass every sample on from equal histories. -/
theorem nyquistLowPassIsTheIdentity : Obligations.NyquistLowPassIsTheIdentity := by
  unfold Obligations.NyquistLowPassIsTheIdentity
  intro f x hfs htype hfreq hx1 hx2 hy1 hy2 c
  have hc : Coeffs.values c = [1, 2, 1, 2, 1] := by
    rw [show c = defaultDesign f.type f.freq f.fs from rfl, htype]
    exact values_lowPass12_nyquist hfs hfreq
  exact ⟨hc, numbers_bqLoop_identity (f := f.update .default) hc (hx1.trans hy1.symm) (hx2.trans hy2.symm) x⟩

/-- Settles O30: the twenty coefficients are the formulas; the gains are their sums, and the pole is an exponential. -/
theorem defaultDesignIsTheFormula : Obligations.DefaultDesignIsTheFormula := by
  unfold Obligations.DefaultDesignIsTheFormula
  intro f fs hfs w alpha a0 p values
  have ha0 : 0 < a0 := designA0_pos w
  have hlow12 : values .lowPass12 = _ := values_lowPass12 f fs
  have hhigh12 : values .highPass12 = _ := values_highPass12 f fs
  have hlow6 : values .lowPass6 = _ := values_lowPass6 f fs
  have hhigh6 : values .highPass6 = _ := values_highPass6 f fs
  refine ⟨ha0, hlow12, hhigh12, hlow6, hhigh6, fun t => ?gains, fun hf => ?pole⟩
  case gains =>
    have hne : 1 + designAlpha (designAngle f fs) ≠ 0 := ha0.ne'
    cases t
    case lowPass12 =>
      obtain ⟨hb0, hb1, hb2, ha1, ha2⟩ := gains_of_values hlow12
      refine ⟨fun _ => ?_, by simp⟩
      rw [hb0, hb1, hb2, ha1, ha2]
      field_simp
      ring
    case lowPass6 =>
      obtain ⟨hb0, hb1, hb2, ha1, ha2⟩ := gains_of_values hlow6
      refine ⟨fun _ => ?_, by simp⟩
      rw [hb0, hb1, hb2, ha1, ha2]
      ring
    case highPass12 =>
      obtain ⟨hb0, hb1, hb2, ha1, ha2⟩ := gains_of_values hhigh12
      refine ⟨by simp, fun _ => ⟨?_, ?_⟩⟩
      · rw [hb0, hb1, hb2]
        ring
      · rw [hb0, hb1, hb2, ha1, ha2]
        field_simp
        ring
    case highPass6 =>
      obtain ⟨hb0, hb1, hb2, ha1, ha2⟩ := gains_of_values hhigh6
      refine ⟨by simp, fun _ => ⟨?_, ?_⟩⟩
      · rw [hb0, hb1, hb2]
        ring
      · rw [hb0, hb1, hb2, ha1, ha2]
        ring
  case pole =>
    have hangle : 0 < w := mul_pos (by positivity) (div_pos hf hfs)
    exact ⟨Real.exp_pos _, Real.exp_lt_one_iff.2 (neg_lt_zero.2 hangle)⟩

end Sys2Proof.Claims

/-! GP.PROC (45_granular.md section 2): the course of one grain through a block, the pool as its grains' courses one after the
other, and the generator handed from grain to grain. -/

namespace Sys2Proof.Machine

open Sys2Proof.Claims

/-! ## The course of one grain -/

section
variable (p : Params) (speed : NUM) (k0 : Nat)

/-- A grain and the generator after the sample of block index `n` (45_granular.md R194): advanced, or reseeded. -/
def grainNext (n : Nat) (c : Grain × Rng) : Grain × Rng :=
  if c.1.advance.expired then reseed p speed k0 (n + 1) c.2 else (c.1.advance, c.2)

/-- A grain and the generator before the sample of block index `n`, from `g` and `r` at the beginning of the block. -/
def grainCourse (g : Grain) (r : Rng) : Nat → Grain × Rng
  | 0 => (g, r)
  | n + 1 => grainNext p speed k0 n (grainCourse g r n)

/-- The sample loop of one grain, from any place of its course on. -/
theorem grainLoop_course (b : RingBuf) (g : Grain) (r : Rng) (todo n : Nat) :
    grainLoop p speed b k0 todo n (grainCourse p speed k0 g r n).1 (grainCourse p speed k0 g r n).2 =
      ⟨(List.range todo).map fun j => grainSample p b (grainCourse p speed k0 g r (n + j)).1,
        (grainCourse p speed k0 g r (n + todo)).1, (grainCourse p speed k0 g r (n + todo)).2,
        (List.range todo).flatMap fun j => rbReadViol p 24 b (grainCourse p speed k0 g r (n + j)).1.pos⟩ := by
  induction todo generalizing n with
  | zero => rfl
  | succ todo ih =>
    have hnext := ih (n + 1)
    rw [grainCourse, grainNext] at hnext
    rw [grainLoop, hnext, List.range_succ_eq_map, List.map_cons, List.map_map, List.flatMap_cons, List.flatMap_map]
    simp only [Function.comp_def, Nat.add_zero, Nat.add_assoc, Nat.add_comm 1]

/-- One place of a course is a step of R194 and R196. -/
theorem grainNext_step (n : Nat) (g : Grain) (r : Rng) :
    GrainStep p speed k0 n g (grainNext p speed k0 n (g, r)).1 r (grainNext p speed k0 n (g, r)).2 := by
  have hexpired : g.advance.expired = true ↔ g.start.val + g.len.val < g.pos.val + g.speed.val := by
    simp [Grain.expired, Grain.advance]
  by_cases h : g.start.val + g.len.val < g.pos.val + g.speed.val
  · rw [grainNext, if_pos (hexpired.2 h), GrainStep, if_pos h]
  · rw [grainNext, if_neg (mt hexpired.1 h), GrainStep, if_neg h]
    exact ⟨rfl, NUM.val_add _ _, rfl⟩

/-! ## The pool -/

/-- A grain for the places after the end of a pool, which is never played. -/
def idleGrain : Grain := ⟨.rat 0, .rat 0, .rat 0, .rat 0, false⟩

variable (l : Nat)

/-- The generator at the beginning of grain `i`: what the grains before it left after their whole block. -/
def poolRng : List Grain → Rng → Nat → Rng
  | _, r, 0 => r
  | [], r, _ + 1 => r
  | g :: rest, r, i + 1 => poolRng rest (grainCourse p speed k0 g r l).2 i

/-- Grain `i` and the generator before the sample of block index `n`. -/
def poolCourse (gs : List Grain) (r : Rng) (i n : Nat) : Grain × Rng :=
  grainCourse p speed k0 (gs.getD i idleGrain) (poolRng p speed k0 l gs r i) n

theorem poolRng_zero (gs : List Grain) (r : Rng) : poolRng p speed k0 l gs r 0 = r := by cases gs <;> rfl

/-- Grain `i + 1` starts with the generator grain `i` left. -/
theorem poolRng_succ {gs : List Grain} {i : Nat} (hi : i < gs.length) (r : Rng) :
    poolRng p speed k0 l gs r (i + 1) = (poolCourse p speed k0 l gs r i l).2 := by
  induction gs generalizing i r with
  | nil => cases hi
  | cons g gs ih =>
    cases i with
    | zero => cases gs <;> rfl
    | succ i => exact ih (Nat.lt_of_succ_lt_succ hi) _

variable (b : RingBuf)

/-- One grain of the pool and the rest of it. -/
theorem poolLoop_cons (g : Grain) (gs : List Grain) (r : Rng) (acc : List NUM) :
    let c := grainCourse p speed k0 g r
    let tail := poolLoop p speed b k0 l gs (c l).2
      (List.zipWith .add acc ((List.range l).map fun n => grainSample p b (c n).1))
    poolLoop p speed b k0 l (g :: gs) r acc = ⟨tail.out, (c l).1 :: tail.grains, tail.rng,
      ((List.range l).flatMap fun n => rbReadViol p 24 b (c n).1.pos) ++ tail.viol⟩ := by
  have hrun := grainLoop_course p speed k0 b g r l 0
  simp only [grainCourse, Nat.zero_add] at hrun
  rw [poolLoop, hrun]

theorem poolLoop_rng (gs : List Grain) (r : Rng) (acc : List NUM) :
    (poolLoop p speed b k0 l gs r acc).rng = poolRng p speed k0 l gs r gs.length := by
  induction gs generalizing r acc with
  | nil => rfl
  | cons g gs ih => rw [poolLoop_cons]; exact ih _ _

/-- The pool ends as the courses end. -/
theorem poolLoop_grain {gs : List Grain} {i : Nat} (hi : i < gs.length) (r : Rng) (acc : List NUM) :
    (poolLoop p speed b k0 l gs r acc).grains[i]? = some (poolCourse p speed k0 l gs r i l).1 := by
  induction gs generalizing r acc i with
  | nil => cases hi
  | cons g gs ih =>
    rw [poolLoop_cons]
    cases i with
    | zero => rfl
    | succ i =>
      dsimp only
      rw [List.getElem?_cons_succ, ih (Nat.lt_of_succ_lt_succ hi)]
      rfl

theorem sampleAt_zipWith_add {x y : List NUM} {n : Nat} (hx : n < x.length) (hy : n < y.length) :
    sampleAt (List.zipWith .add x y) n = sampleAt x n + sampleAt y n := by
  rw [sampleAt, sampleAt, sampleAt, List.getD_eq_getElem _ _ (by simp [hx, hy]), List.getD_eq_getElem _ _ hx,
    List.getD_eq_getElem _ _ hy, List.getElem_zipWith, NUM.val_add]

/-- Every output sample is the sum of what the grains contribute (R194). -/
theorem sampleAt_poolLoop_out {gs : List Grain} (r : Rng) {acc : List NUM} (hacc : acc.length = l) {n : Nat} (hn : n < l) :
    sampleAt (poolLoop p speed b k0 l gs r acc).out n = sampleAt acc n + ((List.range gs.length).map fun i =>
      (grainSample p b (poolCourse p speed k0 l gs r i n).1).val).sum := by
  induction gs generalizing r acc with
  | nil => rw [poolLoop, List.length_nil, List.range_zero, List.map_nil, List.sum_nil, add_zero]
  | cons g gs ih =>
    rw [poolLoop_cons]
    dsimp only
    rw [ih _ (by simp [hacc]), sampleAt_zipWith_add (by omega) (by simpa using hn), List.length_cons,
      List.range_succ_eq_map, List.map_cons, List.sum_cons, List.map_map, ← add_assoc]
    congr 2
    rw [sampleAt, List.getD_eq_getElem _ _ (by simpa using hn), List.getElem_map, List.getElem_range]
    rfl

/-- The records of the reads, grain by grain. -/
theorem poolLoop_viol (gs : List Grain) (r : Rng) (acc : List NUM) : (poolLoop p speed b k0 l gs r acc).viol =
    (List.range gs.length).flatMap fun i => (List.range l).flatMap fun n =>
      rbReadViol p 24 b (poolCourse p speed k0 l gs r i n).1.pos := by
  induction gs generalizing r acc with
  | nil => rfl
  | cons g gs ih =>
    rw [poolLoop_cons, List.length_cons, List.range_succ_eq_map, List.flatMap_cons, List.flatMap_map]
    dsimp only
    rw [ih]
    rfl

/-! ## Draws come in pairs -/

/-- From `r` to `r'` the generator keeps its seed and has drawn an even number of values (45_granular.md R196). -/
def DrawnInPairs (r r' : Rng) : Prop := r'.seed = r.seed ∧ ∃ k : Nat, r'.drawn = r.drawn + 2 * k

theorem DrawnInPairs.refl (r : Rng) : DrawnInPairs r r := ⟨rfl, 0, rfl⟩

theorem DrawnInPairs.trans {r r' r'' : Rng} (h : DrawnInPairs r r') (k : DrawnInPairs r' r'') : DrawnInPairs r r'' := by
  obtain ⟨hseed, i, hi⟩ := h
  obtain ⟨kseed, j, hj⟩ := k
  exact ⟨kseed.trans hseed, i + j, by rw [hj, hi]; ring⟩

theorem grainNext_drawnInPairs (n : Nat) (c : Grain × Rng) : DrawnInPairs c.2 (grainNext p speed k0 n c).2 := by
  unfold grainNext
  split
  · exact ⟨rfl, 1, rfl⟩
  · exact .refl _

theorem grainCourse_drawnInPairs (g : Grain) (r : Rng) (n : Nat) : DrawnInPairs r (grainCourse p speed k0 g r n).2 := by
  induction n with
  | zero => exact .refl r
  | succ n ih => exact ih.trans (grainNext_drawnInPairs p speed k0 n _)

theorem poolRng_drawnInPairs (gs : List Grain) (r : Rng) (i : Nat) : DrawnInPairs r (poolRng p speed k0 l gs r i) := by
  induction gs generalizing r i with
  | nil => cases i <;> exact .refl r
  | cons g gs ih =>
    cases i with
    | zero => exact .refl r
    | succ i => exact (grainCourse_drawnInPairs p speed k0 g r l).trans (ih _ i)

end

/-! ## The numbers of the output -/

/-- What a grain contributes (45_granular.md R194, R195). -/
theorem val_grainSample (p : Params) (b : RingBuf) (g : Grain) : (grainSample p b g).val =
    readValue p 24 b g.pos.val * envelope ((g.pos.val - g.start.val) / g.len.val) := by
  rw [grainSample, NUM.val_mul, val_rbRead_eq_readValue, val_window, NUM.val_div, NUM.val_sub]

/-- The normalisation as a real number (45_granular.md R199). -/
theorem val_grainNorm (p : Params) : (grainNorm p).val = 1 / √(p.numGrains / 2) := by
  have hhalf : ((NUM.ofNat p.numGrains).div (.rat 2)).val = (p.numGrains : ℝ) / 2 := by simp
  rw [grainNorm, NUM.val_div, NUM.val_sqrt (by rw [hhalf]; positivity), hhalf, NUM.val_rat, Rat.cast_one]

/-! ## GP.PROC -/

section
variable (s : State) (x : List NUM)

/-- Grain `i` of the pool, and the generator, before the sample of block index `n` of a GP.PROC on `l` samples. -/
def State.gpCourse (l i n : Nat) : Grain × Rng :=
  poolCourse s.cfg s.blk.gp.speed s.blk.rb[24].wc l s.blk.gp.grains s.blk.gp.rng i n

theorem State.gpProc_rb_same :
    (s.gpProc x).1.blk.rb[24] = x.foldl (rbWrite s.cfg 24) s.blk.rb[24] := Vector.getElem_set_self _

theorem State.gpProc_rng : (s.gpProc x).1.blk.gp.rng =
    poolRng s.cfg s.blk.gp.speed s.blk.rb[24].wc x.length s.blk.gp.grains s.blk.gp.rng s.blk.gp.grains.length :=
  poolLoop_rng _ _ _ _ _ _ _ _

theorem State.gpProc_grains_length : (s.gpProc x).1.blk.gp.grains.length = s.blk.gp.grains.length :=
  poolLoop_grains_length _ _ _ _ _ _ _ _

theorem State.gpProc_grain {i : Nat} (hi : i < s.blk.gp.grains.length) :
    (s.gpProc x).1.blk.gp.grains[i]? = some (s.gpCourse x.length i x.length).1 := poolLoop_grain _ _ _ _ _ hi _ _

theorem State.sampleAt_gpProc_out {n : Nat} (hn : n < x.length) : sampleAt (s.gpProc x).2 n =
    ((List.range s.blk.gp.grains.length).map fun i => (grainSample s.cfg (x.foldl (rbWrite s.cfg 24) s.blk.rb[24])
      (s.gpCourse x.length i n).1).val).sum * (grainNorm s.cfg).val := by
  have hzero : sampleAt (List.replicate x.length (.rat 0)) n = 0 := by simp [sampleAt]
  rw [State.gpProc, sampleAt_map (by rw [poolLoop_length _ _ _ _ _ _ _ _ List.length_replicate]; exact hn), NUM.val_mul]
  congr 1
  refine (sampleAt_poolLoop_out _ _ _ _ _ _ List.length_replicate hn).trans ?_
  rw [hzero, zero_add]
  rfl

theorem State.gpProc_viol : (s.gpProc x).1.viol = s.viol ++ (List.range s.blk.gp.grains.length).flatMap fun i =>
    (List.range x.length).flatMap fun n =>
      rbReadViol s.cfg 24 (x.foldl (rbWrite s.cfg 24) s.blk.rb[24]) (s.gpCourse x.length i n).1.pos :=
  congrArg (s.viol ++ ·) (poolLoop_viol _ _ _ _ _ _ _ _)

theorem mem_rbReadViol {p : Params} {r : Fin 25} {b : RingBuf} {pos : NUM} {v : Viol} (h : v ∈ rbReadViol p r b pos) :
    v = .rbRange r pos := by
  unfold rbReadViol at h
  split at h
  · exact absurd h List.not_mem_nil
  · exact List.mem_singleton.1 h

/-- GP.PROC on a legal block. -/
theorem exec_gpProc_of_size {s : State} {l : Nat} (h0 : s.args.a0.val = l) (hB : l ≤ s.cfg.blockSize)
    (hx : l ≤ s.args.xin0.length) : exec .gpProc s = .next (({ (s.gpProc (s.args.xin0.take l)).1 with
      gpRan := true } : State).answer none (s.gpProc (s.args.xin0.take l)).2 []) :=
  (exec_gpProc s).trans (congrArg _ (withOperand_of_ok (blockOperand_of_size h0 hB hx)))

end

end Sys2Proof.Machine

namespace Sys2Proof.Claims

open Sys2Proof.Machine

/-- Settles O45: the frame of GP.PROC; the generator because every reseed draws twice, the records because all are of reads. -/
theorem gpProcWritesOnlyTheShifter : Obligations.GpProcWritesOnlyTheShifter := by
  unfold Obligations.GpProcWritesOnlyTheShifter
  intro s l h0 hB hx hwf hcap
  have hlen : (s.args.xin0.take l).length = l := by simp [hx]
  have hexec := exec_gpProc_of_size h0 hB hx
  have hhost := ((KeepsHost.refl s).gpProc (s.args.xin0.take l)).setGpRan true
  have hbuf := s.gpProc_rb_same (s.args.xin0.take l)
  have hrng := s.gpProc_rng (s.args.xin0.take l)
  have hviol := s.gpProc_viol (s.args.xin0.take l)
  have hgrains := s.gpProc_grains_length (s.args.xin0.take l)
  have hout := s.gpProc_out_length (s.args.xin0.take l)
  obtain ⟨hseed, hdrawn⟩ := poolRng_drawnInPairs s.cfg s.blk.gp.speed s.blk.rb[24].wc (s.args.xin0.take l).length
    s.blk.gp.grains s.blk.gp.rng s.blk.gp.grains.length
  rw [← hrng] at hseed hdrawn
  refine ⟨_, _, hexec, hout.trans hlen, hbuf, ?cursor, ?kept, fun k hk => getElem_fin_set_ne hk, rfl, hseed, hdrawn,
    hgrains, rfl, rfl, rfl, ⟨_, hviol, ?records⟩, hhost.answer _ _ _⟩
  case cursor => exact (congrArg RingBuf.wc hbuf).trans (by rw [rbWrite_foldl_wc, hlen])
  case kept =>
    intro j hj
    refine (congrArg (memRead · j) hbuf).trans ?_
    exact memRead_rbWrite_foldl_of_not_mem (r := 24) hcap hwf (by rw [hlen]; exact hj)
  case records =>
    intro v hv
    obtain ⟨i, -, hi⟩ := List.mem_flatMap.1 hv
    obtain ⟨n, -, hn⟩ := List.mem_flatMap.1 hi
    exact ⟨_, mem_rbReadViol hn⟩

/-- Settles O46: the courses of the grains of the pool. -/
theorem gpProcPlaysEveryGrain : Obligations.GpProcPlaysEveryGrain := by
  unfold Obligations.GpProcPlaysEveryGrain
  intro s l h0 hB hx
  have hlen : (s.args.xin0.take l).length = l := by simp [hx]
  have hexec := exec_gpProc_of_size h0 hB hx
  have hhost := ((KeepsHost.refl s).gpProc (s.args.xin0.take l)).setGpRan true
  have hbuf := s.gpProc_rb_same (s.args.xin0.take l)
  have hrng := s.gpProc_rng (s.args.xin0.take l)
  have hviol := s.gpProc_viol (s.args.xin0.take l)
  have hgrains := s.gpProc_grains_length (s.args.xin0.take l)
  have hout := s.gpProc_out_length (s.args.xin0.take l)
  have hgrain {i : Nat} (hi : i < s.blk.gp.grains.length) := s.gpProc_grain (s.args.xin0.take l) hi
  have hsample {n : Nat} (hn : n < l) := s.sampleAt_gpProc_out (s.args.xin0.take l) (n := n) (by rwa [hlen])
  rw [hlen] at hrng hviol
  simp only [hlen] at hgrain hsample
  refine ⟨_, _, fun i n => (s.gpCourse l i n).1, fun i n => (s.gpCourse l i n).2, hexec, hhost.answer _ _ _, hout.trans hlen,
    hbuf, ?first, hrng, hgrains, fun i hi => ⟨?start, hgrain hi, poolRng_succ _ _ _ _ hi _, fun n _ => ?step⟩,
    fun n hn => (hsample hn).trans ?samples, hviol.trans ?records⟩
  case first => exact poolRng_zero ..
  case start => rw [List.getElem?_eq_getElem hi]; exact congrArg some (List.getD_eq_getElem _ _ hi).symm
  case step => exact grainNext_step _ _ _ _ _ _
  case samples => simp only [val_grainSample, val_grainNorm, State.answer_blk, hbuf]
  case records => simp only [rbReadViol_eq_rangeRecord, State.answer_blk, hbuf]

end Sys2Proof.Claims

/-! The numbers: the real functions, comparison and rounding, the offset and the normalisation, and the freeze smoother
(00_scope.md section 6, 46_arithmetic_and_control.md, 44_reverb_engine.md R176). -/

namespace Sys2Proof.NUM

theorem val_sqrt_mul_self {a : NUM} (h : 0 ≤ a.val) : (a.sqrt.mul a.sqrt).val = a.val := by
  rw [val_mul, val_sqrt h, Real.mul_self_sqrt h]

/-- Half a turn is `π`. -/
theorem turns_add_half {t u : NUM} (h : u.val = t.val + 1 / 2) :
    2 * Real.pi * u.val = 2 * Real.pi * t.val + Real.pi := by
  rw [h]; ring

end Sys2Proof.NUM

namespace Sys2Proof.Machine

theorem val_grainNorm_sq {p : Params} : (grainNorm p).val ^ 2 = 1 / (p.numGrains / 2) := by
  rw [val_grainNorm, div_pow, one_pow, Real.sq_sqrt (by positivity)]

/-! ## Repeated smoothing steps (44_reverb_engine.md R176) -/

theorem State.smoothFreeze_iterate_param (s : State) (k : Nat) (i : ParamId) :
    (State.smoothFreeze^[k] s).param i = s.param i := by
  induction k with
  | zero => rfl
  | succ k ih => rw [Function.iterate_succ_apply']; exact ih

theorem State.smoothFreeze_iterate_succ_val (s : State) (k : Nat) :
    (State.smoothFreeze^[k + 1] s).blk.rv.smoothedFreeze.val =
      (State.smoothFreeze^[k] s).blk.rv.smoothedFreeze.val * (95 / 100) +
        (if (s.param .freeze).val ≠ 0 then 1 else 0) * (5 / 100) := by
  rw [Function.iterate_succ_apply', State.smoothFreeze_val, State.smoothFreeze_iterate_param]

end Sys2Proof.Machine

namespace Sys2Proof.Claims

open Sys2Proof.Machine

/-- Settles O56, from the values of the real functions. -/
theorem realFunctionsAreExact : Obligations.RealFunctionsAreExact := by
  unfold Obligations.RealFunctionsAreExact
  refine ⟨fun a h => ⟨NUM.val_sqrt_mul_self h, ?root, (NUM.same_iff _ _).2 (NUM.val_sqrt_mul_self h)⟩,
    fun t u h => ⟨(NUM.same_iff _ _).2 ?circle, (NUM.same_iff _ _).2 ?sine, (NUM.same_iff _ _).2 ?cosine⟩,
    fun a b => ⟨(NUM.same_iff _ _).2 ?powers, (NUM.same_iff _ _).2 ?exponentials⟩, (NUM.same_iff _ _).2 ?rootOfTen,
    fun a h => (NUM.same_iff _ _).2 ?inverse⟩
  case root => rw [NUM.val_sqrt h]; exact Real.sqrt_nonneg _
  case circle =>
    have := Real.sin_sq_add_cos_sq (2 * Real.pi * t.val)
    simpa [sq] using this
  case sine => rw [NUM.val_neg, NUM.val_sinTurns, NUM.val_sinTurns, NUM.turns_add_half h, Real.sin_add_pi]
  case cosine => rw [NUM.val_neg, NUM.val_cosTurns, NUM.val_cosTurns, NUM.turns_add_half h, Real.cos_add_pi]
  case powers =>
    simp only [NUM.val_mul, NUM.val_pow10, NUM.val_add]
    exact (Real.rpow_add (by norm_num) _ _).symm
  case exponentials =>
    simp only [NUM.val_mul, NUM.val_expNegTurns, NUM.val_add]
    rw [← Real.exp_add]
    ring_nf
  case rootOfTen =>
    rw [NUM.val_pow10, NUM.val_sqrt (by simp), Real.sqrt_eq_rpow]
    norm_num
  case inverse => rw [NUM.val_mul, NUM.val_inv, mul_inv_cancel₀ h, NUM.val_rat, Rat.cast_one]

/-- Settles O57: the comparisons and conversions are those of the reals. -/
theorem comparisonAndRoundingAreExact : Obligations.ComparisonAndRoundingAreExact := by
  unfold Obligations.ComparisonAndRoundingAreExact
  refine ⟨fun a b => ⟨NUM.lt_iff a b, NUM.same_iff a b, NUM.le_iff a b, ?_⟩, fun p => ?_⟩
  · have hlt := NUM.lt_iff a b
    have hsame := NUM.same_iff a b
    have hgt := NUM.lt_iff b a
    rcases lt_trichotomy a.val b.val with h | h | h
    · simp [hlt.2 h, mt hsame.1 h.ne, mt hgt.1 h.not_gt]
    · simp [mt hlt.1 h.not_lt, hsame.2 h, mt hgt.1 h.not_gt]
    · simp [mt hlt.1 h.not_gt, mt hsame.1 h.ne', hgt.2 h]
  · have hround := Int.floor_le (p.val + 1 / 2)
    have hround' := Int.lt_floor_add_one (p.val + 1 / 2)
    simp only [NUM.floor_eq, NUM.ceil_eq, roundHalfUp_eq, val_frac]
    exact ⟨Int.floor_le _, Int.lt_floor_add_one _, by linarith [Int.ceil_lt_add_one p.val], Int.le_ceil _, by linarith,
      by linarith, rfl, Int.fract_nonneg _, Int.fract_lt_one _⟩

/-- Settles O58: the sine at the quarters of a turn, and the square root of a positive number. -/
theorem offsetAndNormalisationAreExact : Obligations.OffsetAndNormalisationAreExact := by
  unfold Obligations.OffsetAndNormalisationAreExact
  refine ⟨fun d => ⟨d.val_offset, d.abs_offset_le, fun h => ?quarter, fun h => ?threeQuarters, fun h => ?half⟩,
    fun p hp => ?norm⟩
  case quarter =>
    rw [d.val_offset, h, show 2 * Real.pi * (1 / 4) = Real.pi / 2 by ring, Real.sin_pi_div_two, mul_one]
  case threeQuarters =>
    rw [d.val_offset, h, show 2 * Real.pi * (3 / 4) = Real.pi / 2 + Real.pi by ring, Real.sin_add_pi, Real.sin_pi_div_two,
      mul_neg_one]
  case half => rw [d.val_offset, h, show 2 * Real.pi * (1 / 2) = Real.pi by ring, Real.sin_pi, mul_zero]
  case norm =>
    have hpos : (0 : ℝ) < p.numGrains / 2 := by
      have : (1 : ℝ) ≤ p.numGrains := by exact_mod_cast hp
      linarith
    refine ⟨val_grainNorm p, ?_, ?_, fun h => ?_, fun h => ?_⟩
    · rw [val_grainNorm]; positivity
    · rw [val_grainNorm_sq, one_div, inv_mul_cancel₀ hpos.ne']
    · rw [val_grainNorm, h]; norm_num
    · rw [val_grainNorm_sq, h]; norm_num

/-- Settles O41, by induction on the number of steps. -/
theorem freezeSmootherLaw : Obligations.FreezeSmootherLaw := by
  unfold Obligations.FreezeSmootherLaw
  refine ⟨fun s k hf h0 => ?held, fun s k hf => ?released, fun s h0 h1 hk => ?bounds⟩
  case held =>
    induction k with
    | zero => rw [Function.iterate_zero, id, h0, pow_zero, sub_self]
    | succ k ih => rw [State.smoothFreeze_iterate_succ_val, ih, if_pos hf]; ring
  case released =>
    induction k with
    | zero => rw [Function.iterate_zero, id, pow_zero, mul_one]
    | succ k ih => rw [State.smoothFreeze_iterate_succ_val, ih, if_neg (not_not.2 hf)]; ring
  case bounds =>
    have hsmooth : 0 ≤ s.smoothFreeze.blk.rv.smoothedFreeze.val ∧ s.smoothFreeze.blk.rv.smoothedFreeze.val < 1 := by
      rw [State.smoothFreeze_val]
      split <;> constructor <;> linarith
    rw [State.smoothFreeze_activeKrt_val]
    constructor <;> nlinarith [hsmooth.1, hsmooth.2]

end Sys2Proof.Claims

/-! RV.PROC as one run of each unit (44_reverb_engine.md R171 to R177): every delay place, with its storage and with the allpass that
owns it, is processed exactly once, and no other step touches it. -/

namespace Sys2Proof.Machine

open Sys2Proof.Claims

theorem rbOfMd_injective : Function.Injective rbOfMd := fun _ _ h => Fin.ext (congrArg (fun r : Fin 25 => r.val) h)

theorem mdOfAp_injective : Function.Injective mdOfAp := fun _ _ h => Fin.ext (Nat.add_left_cancel (congrArg Fin.val h))

/-! ## Delay places -/

/-- `s` and `t` agree on delay `m`, on its ring buffer, and on the allpass that owns it, if one does (10_state.md R21). -/
structure SamePlace (s t : State) (m : Fin 24) : Prop where
  md : t.blk.md[m] = s.blk.md[m]
  rb : t.blk.rb[rbOfMd m] = s.blk.rb[rbOfMd m]
  ap : ∀ a : Fin 20, mdOfAp a = m → t.blk.ap[a] = s.blk.ap[a]

section
variable {s t u : State} {m : Fin 24} {x : List NUM}

theorem SamePlace.of_eq (hmd : t.blk.md = s.blk.md) (hrb : t.blk.rb = s.blk.rb) (hap : t.blk.ap = s.blk.ap) :
    SamePlace s t m := ⟨by rw [hmd], by rw [hrb], fun a _ => by rw [hap]⟩

theorem SamePlace.refl (s : State) (m : Fin 24) : SamePlace s s m := .of_eq rfl rfl rfl

theorem SamePlace.trans (h : SamePlace s t m) (k : SamePlace t u m) : SamePlace s u m :=
  ⟨k.md.trans h.md, k.rb.trans h.rb, fun a ha => (k.ap a ha).trans (h.ap a ha)⟩

theorem State.apProc_samePlace (s : State) {a : Fin 20} (h : mdOfAp a ≠ m) (x : List NUM) :
    SamePlace s (s.apProc a x) m where
  md := s.apProc_md_ne a x h.symm
  rb := s.apProc_rb_ne a x fun e => h (rbOfMd_injective e).symm
  ap b hb := s.apProc_ap_ne a x (by rintro rfl; exact h hb)

theorem State.mdProc_samePlace (s : State) {k : Fin 24} (h : k ≠ m) (x : List NUM) : SamePlace s (s.mdProc k x) m where
  md := s.mdProc_md_ne k x h.symm
  rb := s.mdProc_rb_ne k x fun e => h (rbOfMd_injective e).symm
  ap _ _ := rfl

/-- AP.PROC uses nothing of the state but its own place and the construction. -/
theorem SamePlace.apProc {a : Fin 20} (h : SamePlace s t (mdOfAp a)) (hcfg : t.cfg = s.cfg) (x : List NUM) :
    SamePlace (s.apProc a x) (t.apProc a x) (mdOfAp a) := by
  have hap := h.ap a rfl
  have hrun : apRun t a x = apRun s a x := by rw [apRun, apRun, hcfg, h.md, hap, h.rb]
  refine ⟨?_, ?_, fun b hb => ?_⟩
  · rw [State.apProc_md_same, State.apProc_md_same, h.md]
  · rw [State.apProc_rb, State.apProc_rb, getElem_fin_set_self, getElem_fin_set_self, hrun]
  · obtain rfl := mdOfAp_injective hb
    rw [State.apProc_ap_same, State.apProc_ap_same, hap, hrun]

/-- MD.PROC uses nothing of the state but its own place and the construction. -/
theorem SamePlace.mdProc (h : SamePlace s t m) (hcfg : t.cfg = s.cfg) (x : List NUM) :
    SamePlace (s.mdProc m x) (t.mdProc m x) m where
  md := by rw [State.mdProc_md_same, State.mdProc_md_same, hcfg, h.md, h.rb]
  rb := by rw [State.mdProc_rb_same, State.mdProc_rb_same, hcfg, h.rb]
  ap a ha := h.ap a ha

/-! ## One run of an allpass, of a delay, of allpasses in series -/

/-- In `t` the place of allpass `a` is as one AP.PROC of `x` on `s` leaves it. -/
def ApDone (s t : State) (a : Fin 20) (x : List NUM) : Prop := SamePlace (s.apProc a x) t (mdOfAp a)

/-- In `t` the place of delay `m` is as one MD.PROC of `x` on `s` leaves it. -/
def MdDone (s t : State) (m : Fin 24) (x : List NUM) : Prop := SamePlace (s.mdProc m x) t m

/-- Each allpass of a series has processed the output buffer of the one before it, the first one `c`. -/
def InSeries (s t : State) : List (Fin 20) → List NUM → Prop
  | [], _ => True
  | a :: rest, c => ApDone s t a c ∧ InSeries s t rest t.blk.ap[a].out

theorem ApDone.of_source {a : Fin 20} (h : SamePlace s u (mdOfAp a)) (hcfg : u.cfg = s.cfg) (hdone : ApDone u t a x) :
    ApDone s t a x := (h.apProc hcfg x).trans hdone

theorem MdDone.of_source (h : SamePlace s u m) (hcfg : u.cfg = s.cfg) (hdone : MdDone u t m x) : MdDone s t m x :=
  (h.mdProc hcfg x).trans hdone

theorem InSeries.of_source {as : List (Fin 20)} (h : ∀ a ∈ as, SamePlace s u (mdOfAp a)) (hcfg : u.cfg = s.cfg)
    (hdone : InSeries u t as x) : InSeries s t as x := by
  induction as generalizing x with
  | nil => trivial
  | cons a rest ih =>
    obtain ⟨hhead, htail⟩ := hdone
    exact ⟨hhead.of_source (h a List.mem_cons_self) hcfg, ih (fun b hb => h b (List.mem_cons_of_mem a hb)) htail⟩

theorem InSeries.to_target {as : List (Fin 20)} (h : ∀ a ∈ as, SamePlace t u (mdOfAp a)) (hdone : InSeries s t as x) :
    InSeries s u as x := by
  induction as generalizing x with
  | nil => trivial
  | cons a rest ih =>
    obtain ⟨hhead, htail⟩ := hdone
    have ha := h a List.mem_cons_self
    refine ⟨hhead.trans ha, ih (fun b hb => h b (List.mem_cons_of_mem a hb)) ?_⟩
    rw [ha.ap a rfl]
    exact htail

/-- Every stage of a series has processed a block of `B` samples. -/
theorem InSeries.apDone {as : List (Fin 20)} (ht : t.shape) (hx : x.length = t.cfg.blockSize) (h : InSeries s t as x)
    {a : Fin 20} (ha : a ∈ as) : ∃ c : List NUM, c.length = t.cfg.blockSize ∧ ApDone s t a c := by
  induction as generalizing x with
  | nil => cases ha
  | cons b rest ih =>
    obtain ⟨hhead, htail⟩ := h
    obtain rfl | ha := List.mem_cons.1 ha
    · exact ⟨x, hx, hhead⟩
    · exact ih (ht.apOut b) htail ha

/-- Stage `i + 1` of a series has processed the output buffer of stage `i`. -/
theorem InSeries.succ {as : List (Fin 20)} (h : InSeries s t as x) {i : Nat} (hi : i + 1 < as.length) :
    ApDone s t as[i + 1] t.blk.ap[as[i]].out := by
  induction as generalizing x i with
  | nil => cases hi
  | cons a rest ih =>
    obtain ⟨-, htail⟩ := h
    cases i with
    | zero =>
      cases rest with
      | nil => exact absurd hi (by simp)
      | cons b rest => exact htail.1
    | succ i => exact ih htail (Nat.lt_of_succ_lt_succ hi)

theorem State.chain_samePlace (s : State) {as : List (Fin 20)} (h : ∀ a ∈ as, mdOfAp a ≠ m) (c : List NUM) :
    SamePlace s (s.chain as c) m := by
  induction as generalizing s c with
  | nil => exact .refl s m
  | cons a rest ih =>
    exact (s.apProc_samePlace (h a List.mem_cons_self) c).trans (ih _ (fun b hb => h b (List.mem_cons_of_mem a hb)) _)

/-- A chain of different allpasses is a series: no stage touches another's place. -/
theorem State.chain_inSeries (s : State) {as : List (Fin 20)} (h : as.Nodup) (c : List NUM) :
    InSeries s (s.chain as c) as c := by
  induction as generalizing s c with
  | nil => trivial
  | cons a rest ih =>
    obtain ⟨ha, hrest⟩ := List.nodup_cons.1 h
    have hne {b : Fin 20} (hb : b ∈ rest) : mdOfAp a ≠ mdOfAp b := fun e => ha (mdOfAp_injective e ▸ hb)
    have hkept := (s.apProc a c).chain_samePlace (m := mdOfAp a) (fun b hb => (hne hb).symm) (s.apProc a c).blk.ap[a].out
    refine ⟨hkept, .of_source (fun b hb => s.apProc_samePlace (hne hb) c) rfl ?_⟩
    rw [show ((s.chain (a :: rest) c).blk.ap[a]).out = _ from congrArg Allpass.out (hkept.ap a rfl)]
    exact ih (s.apProc a c) hrest _

end

/-! ## The lanes -/

section
variable {s t u : State} {i j : Fin 4} {x : List NUM}

/-- What the diffusers of lane `i` are fed with: the lane's input, on lane 0 through the post filters (R177). -/
def laneFed (s : State) (i : Fin 4) : List NUM := if i = 0 then (s.postFilter (laneInput s 0)).2 else laneInput s i

/-- The state in which the diffusers of lane `i` begin. -/
def State.laneFiltered (s : State) (i : Fin 4) : State := if i = 0 then (s.postFilter (laneInput s 0)).1 else s

/-- The delay places of lane `i`. -/
def lanePlaces (i : Fin 4) : List (Fin 24) := [mdOfAp (laneDiffuser i 0), mdOfAp (laneDiffuser i 1), laneDelay i]

theorem State.lane_eq (s : State) (i : Fin 4) : s.lane i =
    ((s.laneFiltered i).chain [laneDiffuser i 0, laneDiffuser i 1] (laneFed s i)).mdProc (laneDelay i)
      ((s.laneFiltered i).chain [laneDiffuser i 0, laneDiffuser i 1] (laneFed s i)).blk.ap[laneDiffuser i 1].out := by
  unfold State.lane State.laneFiltered laneFed
  by_cases h : i = 0
  · subst h; rfl
  · simp only [if_neg h]

theorem State.laneFiltered_cfg : (s.laneFiltered i).cfg = s.cfg := by unfold State.laneFiltered; split <;> rfl

theorem State.laneFiltered_samePlace (m : Fin 24) : SamePlace s (s.laneFiltered i) m := by
  unfold State.laneFiltered
  split
  · exact .of_eq rfl rfl rfl
  · exact .refl s m

/-- Only lane 0 writes filters: the post filters. -/
theorem State.lane_bq : (s.lane i).blk.bq = (s.laneFiltered i).blk.bq := by
  rw [State.lane_eq, State.mdProc_bq, State.chain_bq]

theorem State.lane_bq_of_ne (h : i ≠ 0) : (s.lane i).blk.bq = s.blk.bq := by
  rw [State.lane_bq, State.laneFiltered, if_neg h]

/-- Both diffusers and the delay of lane `i` have run in series, the first one on `x` (R177). -/
def LaneDone (s t : State) (i : Fin 4) (x : List NUM) : Prop :=
  InSeries s t [laneDiffuser i 0, laneDiffuser i 1] x ∧ MdDone s t (laneDelay i) t.blk.ap[laneDiffuser i 1].out

theorem mdOfAp_laneDiffuser_mem {a : Fin 20} (h : a ∈ [laneDiffuser i 0, laneDiffuser i 1]) : mdOfAp a ∈ lanePlaces i := by
  simp only [List.mem_cons, List.not_mem_nil, or_false] at h
  rcases h with rfl | rfl <;> simp [lanePlaces]

theorem laneDelay_mem (i : Fin 4) : laneDelay i ∈ lanePlaces i := by simp [lanePlaces]

theorem LaneDone.of_source (h : ∀ m ∈ lanePlaces i, SamePlace s u m) (hcfg : u.cfg = s.cfg) (hdone : LaneDone u t i x) :
    LaneDone s t i x :=
  ⟨hdone.1.of_source (fun _ ha => h _ (mdOfAp_laneDiffuser_mem ha)) hcfg, hdone.2.of_source (h _ (laneDelay_mem i)) hcfg⟩

theorem LaneDone.to_target (h : ∀ m ∈ lanePlaces i, SamePlace t u m) (hdone : LaneDone s t i x) : LaneDone s u i x := by
  have hlast := (h (mdOfAp (laneDiffuser i 1)) (mdOfAp_laneDiffuser_mem (by simp))).ap _ rfl
  refine ⟨hdone.1.to_target fun _ ha => h _ (mdOfAp_laneDiffuser_mem ha), ?_⟩
  rw [hlast]
  exact hdone.2.trans (h _ (laneDelay_mem i))

theorem laneDelay_ne_diffuser (i j : Fin 4) (k : Fin 2) : laneDelay i ≠ mdOfAp (laneDiffuser j k) := by
  intro h
  have := congrArg Fin.val h
  simp only [laneDelay, mdOfAp, laneDiffuser] at this
  omega

theorem State.lane_done (s : State) (i : Fin 4) : LaneDone s (s.lane i) i (laneFed s i) := by
  have hnodup : [laneDiffuser i 0, laneDiffuser i 1].Nodup := by revert i; decide
  have hseries := (s.laneFiltered i).chain_inSeries hnodup (laneFed s i)
  have hne {a : Fin 20} (ha : a ∈ [laneDiffuser i 0, laneDiffuser i 1]) : mdOfAp a ≠ laneDelay i := by
    simp only [List.mem_cons, List.not_mem_nil, or_false] at ha
    rcases ha with rfl | rfl <;> exact (laneDelay_ne_diffuser i i _).symm
  have hbefore := (s.laneFiltered_samePlace (i := i) (laneDelay i)).trans
    ((s.laneFiltered i).chain_samePlace (fun a ha => hne ha) (laneFed s i))
  have hcfg : ((s.laneFiltered i).chain [laneDiffuser i 0, laneDiffuser i 1] (laneFed s i)).cfg = s.cfg := by
    rw [State.chain_cfg, State.laneFiltered_cfg]
  rw [State.lane_eq]
  generalize (s.laneFiltered i).chain [laneDiffuser i 0, laneDiffuser i 1] (laneFed s i) = d at hseries hbefore hcfg
  refine ⟨.of_source (fun _ _ => s.laneFiltered_samePlace _) s.laneFiltered_cfg
    (hseries.to_target fun a ha => d.mdProc_samePlace (hne ha).symm _), ?_⟩
  exact MdDone.of_source hbefore hcfg (.refl _ _)

theorem State.lane_samePlace (s : State) {m : Fin 24} (h : m ∉ lanePlaces i) : SamePlace s (s.lane i) m := by
  have hdiffusers : ∀ a ∈ [laneDiffuser i 0, laneDiffuser i 1], mdOfAp a ≠ m := by
    rintro a ha rfl
    exact h (mdOfAp_laneDiffuser_mem ha)
  have hdelay : laneDelay i ≠ m := by rintro rfl; exact h (laneDelay_mem i)
  rw [State.lane_eq]
  exact ((s.laneFiltered_samePlace m).trans (State.chain_samePlace _ hdiffusers _)).trans (State.mdProc_samePlace _ hdelay _)

theorem lanePlaces_disjoint (h : i ≠ j) : ∀ m ∈ lanePlaces i, m ∉ lanePlaces j := by
  revert i j
  decide

theorem laneInput_lane (s : State) (i j : Fin 4) : laneInput (s.lane j) i = laneInput s i := by
  rw [laneInput, laneInput, State.lane_rv]

/-- The input of a lane does not depend on the other lanes' run (44_reverb_engine.md R176). -/
theorem laneFed_lane (h : j ≠ i) : laneFed (s.lane j) i = laneFed s i := by
  unfold laneFed
  split
  · next h0 =>
    subst h0
    rw [laneInput_lane, State.postFilter, State.postFilter]
    simp only [State.bqProc, State.setBq, State.log, State.lane_bq_of_ne h]
  · exact laneInput_lane s i j

theorem State.lanes_samePlace (s : State) {is : List (Fin 4)} {m : Fin 24} (h : ∀ j ∈ is, m ∉ lanePlaces j) :
    SamePlace s (is.foldl State.lane s) m := by
  induction is generalizing s with
  | nil => exact .refl s m
  | cons j rest ih =>
    exact (s.lane_samePlace (h j List.mem_cons_self)).trans (ih _ fun k hk => h k (List.mem_cons_of_mem j hk))

theorem State.lanes_done (s : State) {is : List (Fin 4)} (hnodup : is.Nodup) (hi : i ∈ is) :
    LaneDone s (is.foldl State.lane s) i (laneFed s i) := by
  induction is generalizing s with
  | nil => cases hi
  | cons j rest ih =>
    obtain ⟨hj, hrest⟩ := List.nodup_cons.1 hnodup
    obtain rfl | hi := List.mem_cons.1 hi
    · refine (s.lane_done i).to_target fun m hm => (s.lane i).lanes_samePlace fun k hk => ?_
      exact lanePlaces_disjoint (by rintro rfl; exact hj hk) m hm
    · have hne : j ≠ i := by rintro rfl; exact hj hi
      have hdone := ih (s.lane j) hrest hi
      rw [laneFed_lane hne] at hdone
      exact hdone.of_source (fun m hm => s.lane_samePlace (lanePlaces_disjoint hne.symm m hm)) (s.lane_cfg j)

end

end Sys2Proof.Machine

/-! RV.PROC (44_reverb_engine.md sections 4 and 5): the smoother, the pre-filters, the pre-diffusers, the tank input, the lanes, the
output mix, and what the operation leaves unchanged. -/

namespace Sys2Proof.Machine

open Sys2Proof.Claims

/-! ## The filters of the engine -/

section
variable {s : State} {x : List NUM}

/-- Two filters in series: the second is fed with what the first gives. -/
theorem State.bqProc_bqProc_bq {p q : Fin 4} (h : q ≠ p) (y : List NUM) : ((s.bqProc p x).1.bqProc q y).1.blk.bq =
    (s.blk.bq.set p (bqLoop s.blk.bq[p] x).1).set q (bqLoop s.blk.bq[q] y).1 := by
  rw [State.bqProc_bq, State.bqProc_bq, getElem_fin_set_ne h]

theorem State.bqProc_bqProc_out {p q : Fin 4} (h : q ≠ p) (y : List NUM) :
    ((s.bqProc p x).1.bqProc q y).2 = (bqLoop s.blk.bq[q] y).2 := by
  rw [State.bqProc_out, State.bqProc_bq, getElem_fin_set_ne h]

theorem State.postFilter_bq : (s.postFilter x).1.blk.bq =
    (s.blk.bq.set (2 : Fin 4) (bqLoop s.blk.bq[2] x).1).set (3 : Fin 4)
      (bqLoop s.blk.bq[3] (bqLoop s.blk.bq[2] x).2).1 := State.bqProc_bqProc_bq (by decide) _

theorem State.postFilter_out : (s.postFilter x).2 = (bqLoop s.blk.bq[3] (bqLoop s.blk.bq[2] x).2).2 :=
  State.bqProc_bqProc_out (by decide) _

variable {l r : List NUM}

theorem State.preFilter_bq : (s.preFilter l r).blk.bq =
    (s.blk.bq.set (0 : Fin 4) (bqLoop s.blk.bq[0] (List.zipWith .add l r)).1).set (1 : Fin 4)
      (bqLoop s.blk.bq[1] (bqLoop s.blk.bq[0] (List.zipWith .add l r)).2).1 := State.bqProc_bqProc_bq (by decide) _

theorem State.preFilter_mono : (s.preFilter l r).blk.rv.mono =
    (bqLoop s.blk.bq[1] (bqLoop s.blk.bq[0] (List.zipWith .add l r)).2).2 := State.bqProc_bqProc_out (by decide) _

end

/-! ## The whole block -/

section
variable (s : State) (stage : Fin 12) (l r : List NUM)

theorem State.rvBlock_eq_foldl : s.rvBlock stage l r = ([0, 1, 2, 3] : List (Fin 4)).foldl State.lane (s.rvTapped stage l r) :=
  rfl

theorem preStages_nodup : preStages.Nodup := by decide

/-- Every allpass is a pre-diffuser or a diffuser of a lane (10_state.md R21). -/
theorem mem_preStages_or_lane : ∀ a : Fin 20, a ∈ preStages ∨ ∃ i, a ∈ [laneDiffuser i 0, laneDiffuser i 1] := by decide

/-- Every delay is owned by an allpass or is the delay of a lane (10_state.md R21). -/
theorem eq_mdOfAp_or_laneDelay : ∀ m : Fin 24, (∃ a, m = mdOfAp a) ∨ ∃ i, m = laneDelay i := by decide

theorem mdOfAp_preStage_not_mem {a : Fin 20} (h : a ∈ preStages) (i : Fin 4) : mdOfAp a ∉ lanePlaces i := by
  revert a i
  decide

theorem State.rvTapped_cfg : (s.rvTapped stage l r).cfg = s.cfg := by
  rw [State.rvTapped, State.snapshot_cfg, State.tapTank_cfg, State.rvDiffused, State.chain_cfg]
  rfl

/-- The pre-diffusers run on the units as they were before the operation. -/
theorem State.smoothed_samePlace (m : Fin 24) : SamePlace s (s.smoothFreeze.preFilter l r) m := .of_eq rfl rfl rfl

theorem State.tapTank_snapshot_samePlace (m : Fin 24) : SamePlace s (s.tapTank stage).snapshot m := .of_eq rfl rfl rfl

theorem State.rvTapped_samePlace_diffused (m : Fin 24) : SamePlace (s.rvDiffused l r) (s.rvTapped stage l r) m :=
  State.tapTank_snapshot_samePlace _ stage m

theorem State.rvTapped_samePlace {m : Fin 24} (h : ∀ a ∈ preStages, mdOfAp a ≠ m) : SamePlace s (s.rvTapped stage l r) m :=
  ((s.smoothed_samePlace l r m).trans (State.chain_samePlace _ h _)).trans (s.rvTapped_samePlace_diffused stage l r m)

/-- The lanes leave the pre-diffusers alone. -/
theorem State.rvBlock_samePlace_diffused {a : Fin 20} (h : a ∈ preStages) :
    SamePlace (s.rvDiffused l r) (s.rvBlock stage l r) (mdOfAp a) := by
  rw [State.rvBlock_eq_foldl]
  exact (s.rvTapped_samePlace_diffused stage l r _).trans
    ((s.rvTapped stage l r).lanes_samePlace fun i _ => mdOfAp_preStage_not_mem h i)

theorem State.tapTank_snapshot_mono : (s.tapTank stage).snapshot.blk.rv.mono = s.blk.rv.mono := rfl

theorem State.rvBlock_mono : (s.rvBlock stage l r).blk.rv.mono = (s.smoothFreeze.preFilter l r).blk.rv.mono := by
  rw [State.rvBlock_rv_eq, State.rvTapped, State.tapTank_snapshot_mono, State.rvDiffused_rv]

/-- The pre-diffusers in series, the first one fed with `RV.s` (44_reverb_engine.md R174). -/
theorem State.rvBlock_preStages : InSeries s (s.rvBlock stage l r) preStages (s.rvBlock stage l r).blk.rv.mono := by
  rw [State.rvBlock_mono]
  exact ((State.chain_inSeries _ preStages_nodup _).to_target fun _ ha =>
    s.rvBlock_samePlace_diffused stage l r ha).of_source (fun _ _ => s.smoothed_samePlace l r _) rfl

/-- The lanes, each fed from the tank input and the snapshots (44_reverb_engine.md R176, R177). -/
theorem State.rvBlock_lane (i : Fin 4) : LaneDone s (s.rvBlock stage l r) i (laneFed (s.rvTapped stage l r) i) := by
  rw [State.rvBlock_eq_foldl]
  refine ((s.rvTapped stage l r).lanes_done (by decide) (by revert i; decide)).of_source (fun m hm => ?_)
    (s.rvTapped_cfg stage l r)
  exact s.rvTapped_samePlace stage l r fun a ha e => mdOfAp_preStage_not_mem ha i (e ▸ hm)

theorem State.tapTank_snapshot_tankIn : (s.tapTank stage).snapshot.blk.rv.tankIn =
    s.blk.ap[stage.val].out.map fun v => (NUM.rat (1 / 2)).mul v := rfl

/-- Half the output of the tapped pre-diffuser (44_reverb_engine.md R175). -/
theorem State.rvBlock_tankIn : (s.rvBlock stage l r).blk.rv.tankIn =
    (s.rvBlock stage l r).blk.ap[stage.val].out.map fun v => (NUM.rat (1 / 2)).mul v := by
  have hmem : ∀ k : Fin 12, (⟨k, by omega⟩ : Fin 20) ∈ preStages := by decide
  have hkept := (s.rvBlock_samePlace_diffused stage l r (hmem stage)).ap _ rfl
  simp only [Fin.getElem_fin] at hkept
  rw [State.rvBlock_rv_eq, hkept, State.rvTapped, State.tapTank_snapshot_tankIn]

theorem State.tapTank_snapshot_prev (i : Fin 4) : (s.tapTank stage).snapshot.blk.rv.prev[i] = s.blk.md[i.val].out :=
  Vector.getElem_ofFn (n := 4) i.isLt

/-- The snapshots are the lane outputs from before the operation (44_reverb_engine.md R176). -/
theorem State.rvBlock_prev (i : Fin 4) : (s.rvBlock stage l r).blk.rv.prev[i] = s.blk.md[i.val].out := by
  have hne : ∀ a ∈ preStages, mdOfAp a ≠ laneDelay i := by revert i; decide
  have hkept := (s.smoothed_samePlace l r (laneDelay i)).trans
    (State.chain_samePlace _ hne (s.smoothFreeze.preFilter l r).blk.rv.mono)
  rw [State.rvBlock_rv_eq, State.rvTapped, State.tapTank_snapshot_prev]
  exact congrArg ModDelay.out hkept.md

theorem State.rvTapped_bq : (s.rvTapped stage l r).blk.bq = (s.smoothFreeze.preFilter l r).blk.bq := by
  rw [State.rvTapped, State.snapshot_bq, State.tapTank_bq, State.rvDiffused, State.chain_bq]

/-- All four filters after the block: the pre-filters on the mono sum, the post filters on the input of lane 0. -/
theorem State.rvBlock_bq : (s.rvBlock stage l r).blk.bq =
    ((s.rvTapped stage l r).postFilter (laneInput (s.rvTapped stage l r) 0)).1.blk.bq := by
  rw [State.rvBlock_eq, State.lane_bq_of_ne (by decide), State.lane_bq_of_ne (by decide), State.lane_bq_of_ne (by decide),
    State.lane_bq]
  rfl

theorem State.rvBlock_bq_pre : (s.rvBlock stage l r).blk.bq[0] = (bqLoop s.blk.bq[0] (List.zipWith .add l r)).1 ∧
    (s.rvBlock stage l r).blk.bq[1] = (bqLoop s.blk.bq[1] (bqLoop s.blk.bq[0] (List.zipWith .add l r)).2).1 := by
  rw [State.rvBlock_bq, State.postFilter_bq, State.rvTapped_bq, State.preFilter_bq]
  simp

theorem State.rvTapped_bq_post : (s.rvTapped stage l r).blk.bq[2] = s.blk.bq[2] ∧
    (s.rvTapped stage l r).blk.bq[3] = s.blk.bq[3] := by
  rw [State.rvTapped_bq, State.preFilter_bq]
  simp

theorem State.rvBlock_bq_post : let x := laneInput (s.rvTapped stage l r) 0
    (s.rvBlock stage l r).blk.bq[2] = (bqLoop s.blk.bq[2] x).1 ∧
      (s.rvBlock stage l r).blk.bq[3] = (bqLoop s.blk.bq[3] (bqLoop s.blk.bq[2] x).2).1 := by
  obtain ⟨h2, h3⟩ := s.rvTapped_bq_post stage l r
  rw [State.rvBlock_bq, State.postFilter_bq, h2, h3]
  simp

/-- The mix of R177: the tank input plus the gain times what the lane before held. -/
theorem State.sampleAt_laneInput {i : Fin 4} {n : Nat} (ht : n < s.blk.rv.tankIn.length)
    (hp : n < s.blk.rv.prev[(i.val + 3) % 4].length) : sampleAt (laneInput s i) n =
      sampleAt s.blk.rv.tankIn n + s.blk.rv.activeKrt.val * sampleAt s.blk.rv.prev[(i.val + 3) % 4] n := by
  rw [laneInput, sampleAt, sampleAt, sampleAt, List.getD_eq_getElem _ _ (by simp [ht, hp]), List.getD_eq_getElem _ _ ht,
    List.getD_eq_getElem _ _ hp, List.getElem_zipWith, NUM.val_add, NUM.val_mul]

theorem sampleAt_outputMix {e : Engine} {a b x : List NUM} {n : Nat} (ha : n < a.length) (hb : n < b.length)
    (hx : n < x.length) : sampleAt (outputMix e a b x) n =
      e.wet.val * (sampleAt a n + sampleAt b n) + e.dry.val * sampleAt x n := by
  rw [outputMix, sampleAt, sampleAt, sampleAt, sampleAt, List.getD_eq_getElem _ _ (by simp [ha, hb, hx]),
    List.getD_eq_getElem _ _ ha, List.getD_eq_getElem _ _ hb, List.getD_eq_getElem _ _ hx, List.getElem_zipWith,
    List.getElem_zipWith, NUM.val_add, NUM.val_mul, NUM.val_mul, NUM.val_add]

end

/-! ## What one run of a unit means in the words of the claims -/

section
variable {s t : State} {x : List NUM}

theorem ApDone.allpassRan {a : Fin 20} (h : ApDone s t a x) (hx : s.blk.ap[a].out.length = x.length) :
    AllpassRan s t a x := by
  refine ⟨?_, ?_⟩
  · rw [h.ap a rfl, State.apProc_ap_same]
    dsimp only
    rw [overwrite, List.drop_eq_nil_of_le (by rw [apRun_out_length, hx]), List.append_nil, apRun]
  · rw [h.rb, State.apProc_rb, getElem_fin_set_self, apRun]

theorem MdDone.delayRan {m : Fin 24} (h : MdDone s t m x) : DelayRan s t m x := by
  refine ⟨?_, ?_, fun n hn => ?_⟩
  · rw [h.rb, State.mdProc_rb_same]
  · rw [h.md, State.mdProc_phase_val]
  · rw [h.md, h.rb, State.sampleAt_mdProc_out s m x hn, State.mdProc_position s m x hn]

/-- The place of delay `m` after a block: the phase advanced once, a block of `B` samples stored. -/
def PlaceRan (s t : State) (m : Fin 24) : Prop :=
  t.blk.md[m] = { s.blk.md[m].advance s.cfg.blockSize with out := t.blk.md[m].out } ∧
    ∃ x : List NUM, x.length = s.cfg.blockSize ∧
      t.blk.rb[rbOfMd m] = x.foldl (rbWrite s.cfg (rbOfMd m)) s.blk.rb[rbOfMd m]

theorem ApDone.placeRan {a : Fin 20} (h : ApDone s t a x) (hx : x.length = s.cfg.blockSize) : PlaceRan s t (mdOfAp a) := by
  refine ⟨?_, s.apFed a x, by rw [State.apFed_length, hx], by rw [h.rb, State.apProc_rb_same]⟩
  rw [h.md, State.apProc_md_same, hx]

theorem MdDone.placeRan {m : Fin 24} (h : MdDone s t m x) (hx : x.length = s.cfg.blockSize) : PlaceRan s t m := by
  refine ⟨?_, x, hx, by rw [h.rb, State.mdProc_rb_same]⟩
  rw [h.md, State.mdProc_md_same, hx]

theorem PlaceRan.phase_val {m : Fin 24} (h : PlaceRan s t m) : t.blk.md[m].phase.val =
    Int.fract (s.blk.md[m].phase.val + s.blk.md[m].modRate.val * s.cfg.blockSize) := by
  rw [h.1]
  simp

theorem ApDone.frame {a : Fin 20} (h : ApDone s t a x) : t.blk.md[mdOfAp a].out = s.blk.md[mdOfAp a].out ∧
    t.blk.ap[a] = { s.blk.ap[a] with out := t.blk.ap[a].out } := by
  refine ⟨by rw [h.md, State.apProc_md_same]; rfl, ?_⟩
  rw [h.ap a rfl, State.apProc_ap_same]

/-- `f'` is `f` but for the history. -/
def HistoryOnly (f f' : Biquad) : Prop := f' = { f with x1 := f'.x1, x2 := f'.x2, y1 := f'.y1, y2 := f'.y2 }

theorem HistoryOnly.of_bqLoop {f f' : Biquad} (h : f' = (bqLoop f x).1) : HistoryOnly f f' := by
  rw [HistoryOnly, h, bqLoop_history]

end

end Sys2Proof.Machine

/-! RV.PROC on legal operands: it completes and writes only what the spec lists (O37), the input side and the mix (O38), the lanes
(O39). -/

namespace Sys2Proof.Machine

open Sys2Proof.Claims

section
variable {s : State} {stage : Fin 12}

/-- The input block of a channel of RV.PROC: the first `B` samples of its operand slot. -/
def State.rvInput (s : State) : List NUM × List NUM := (s.args.xin0.take s.cfg.blockSize, s.args.xin1.take s.cfg.blockSize)

/-- RV.PROC on the state that its precondition describes. -/
theorem exec_rvProc_of_ready (h : EngineReady s stage) :
    exec .rvProc s = .next ((s.rvBlock stage s.rvInput.1 s.rvInput.2).rvFinish s.rvInput) := by
  obtain ⟨hsize, hl, hr, hstage⟩ := h
  exact exec_rvProc_of_stage ((stereoOperand_eq_ok s).2 ⟨hsize, hl, hr, rfl⟩) (stageOperand_eq_some.2 hstage)

theorem rvInput_length (h : EngineReady s stage) :
    s.rvInput.1.length = s.cfg.blockSize ∧ s.rvInput.2.length = s.cfg.blockSize := by
  obtain ⟨-, hl, hr, -⟩ := h
  exact ⟨by simp [State.rvInput, hl], by simp [State.rvInput, hr]⟩

variable (l r : List NUM)

theorem State.rvBlock_cfg : (s.rvBlock stage l r).cfg = s.cfg := (s.rvBlock_buffersFed stage l r).cfg

theorem State.rvBlock_gpRan : (s.rvBlock stage l r).gpRan = s.gpRan :=
  State.rvBlock_induction (P := fun t => t.gpRan = s.gpRan) (fun _ _ h => h) (fun _ _ _ h => h) (fun _ _ _ h => h)
    (fun _ _ _ h => h) rfl stage l r

/-- RV.PROC leaves the pitch shifter and its ring buffer alone (44_reverb_engine.md R181). -/
theorem State.rvBlock_gp : (s.rvBlock stage l r).blk.gp = s.blk.gp ∧
    (s.rvBlock stage l r).blk.rb[(24 : Fin 25)] = s.blk.rb[(24 : Fin 25)] := by
  have hne (m : Fin 24) : (24 : Fin 25) ≠ rbOfMd m := fun e => rbOfMd_ne m (congrArg (fun r : Fin 25 => r.val) e)
  exact State.rvBlock_induction
    (P := fun t => t.blk.gp = s.blk.gp ∧ t.blk.rb[(24 : Fin 25)] = s.blk.rb[(24 : Fin 25)]) (fun _ _ h => h)
    (fun _ _ _ h => h) (fun t a x h => ⟨h.1, (t.apProc_rb_ne a x (hne _)).trans h.2⟩)
    (fun t m x h => ⟨h.1, (t.mdProc_rb_ne m x (hne m)).trans h.2⟩) ⟨rfl, rfl⟩ stage l r

variable {l r}

theorem State.shape.laneFed_length (h : s.shape) (i : Fin 4) : (laneFed s i).length = s.cfg.blockSize := by
  unfold laneFed
  split
  · rw [State.postFilter_length, h.laneInput_length]
  · exact h.laneInput_length i

theorem State.shape.rvTapped (h : s.shape) (hl : l.length = s.cfg.blockSize) (hr : r.length = s.cfg.blockSize) :
    (s.rvTapped stage l r).shape := by
  have hpre := h.smoothFreeze.preFilter hl hr
  exact ((hpre.chain preStages hpre.mono.le).tapTank stage).snapshot

/-- Every allpass has processed one block of `B` samples. -/
theorem State.shape.rvBlock_apDone (h : s.shape) (hl : l.length = s.cfg.blockSize) (hr : r.length = s.cfg.blockSize)
    (a : Fin 20) : ∃ x : List NUM, x.length = s.cfg.blockSize ∧ ApDone s (s.rvBlock stage l r) a x := by
  have hshape := h.rvBlock stage hl hr
  rw [← State.rvBlock_cfg (stage := stage) l r]
  obtain ha | ⟨i, ha⟩ := mem_preStages_or_lane a
  · exact (s.rvBlock_preStages stage l r).apDone hshape hshape.mono ha
  · refine (s.rvBlock_lane stage l r i).1.apDone hshape ?_ ha
    rw [(h.rvTapped hl hr).laneFed_length, State.rvTapped_cfg, State.rvBlock_cfg]

/-- Every delay place has processed one block of `B` samples: the tank delays as delays, the others with their allpass. -/
theorem State.shape.rvBlock_placeRan (h : s.shape) (hl : l.length = s.cfg.blockSize) (hr : r.length = s.cfg.blockSize)
    (m : Fin 24) : PlaceRan s (s.rvBlock stage l r) m := by
  obtain ⟨a, rfl⟩ | ⟨i, rfl⟩ := eq_mdOfAp_or_laneDelay m
  · obtain ⟨x, hx, hdone⟩ := h.rvBlock_apDone (stage := stage) hl hr a
    exact hdone.placeRan hx
  · refine (s.rvBlock_lane stage l r i).2.placeRan (((h.rvBlock stage hl hr).apOut _).trans ?_)
    rw [State.rvBlock_cfg]

theorem PlaceRan.md_eq {t : State} {m : Fin 24} (h : PlaceRan s t m) :
    t.blk.md[m] = { s.blk.md[m] with phase := t.blk.md[m].phase, out := t.blk.md[m].out } := by
  rw [h.1]
  rfl

theorem Engine.sameButBuffers.of_smoothFreeze {e : Engine} (h : s.smoothFreeze.blk.rv.sameButBuffers e) :
    e = { s.blk.rv with
      smoothedFreeze := e.smoothedFreeze, activeKrt := e.activeKrt, prev := e.prev, mono := e.mono, tankIn := e.tankIn } := by
  rw [h]
  rfl

theorem PlaceRan.memory {t : State} {m : Fin 24} (h : PlaceRan s t m) (hcanonical : s.memoryCanonical) :
    t.blk.rb[rbOfMd m].wc = s.blk.rb[rbOfMd m].wc + s.cfg.blockSize ∧
      ∀ j : Nat, j ∉ storedSlots s.cfg.rbCap[rbOfMd m] s.blk.rb[rbOfMd m].wc s.cfg.blockSize →
        memRead t.blk.rb[rbOfMd m] j = memRead s.blk.rb[rbOfMd m] j := by
  obtain ⟨-, x, hx, hrb⟩ := h
  obtain ⟨hcap, hwf⟩ := hcanonical
  rw [hrb, rbWrite_foldl_wc, hx]
  exact ⟨rfl, fun j hj => memRead_rbWrite_foldl_of_not_mem (hcap _) (hwf _) (by rw [hx]; exact hj)⟩

/-- Of a filter RV.PROC changes the history only. -/
theorem State.rvBlock_bq_history (q : Fin 4) : HistoryOnly s.blk.bq[q] (s.rvBlock stage l r).blk.bq[q] := by
  obtain ⟨h0, h1⟩ := s.rvBlock_bq_pre stage l r
  obtain ⟨h2, h3⟩ := s.rvBlock_bq_post stage l r
  match q with
  | 0 => exact .of_bqLoop h0
  | 1 => exact .of_bqLoop h1
  | 2 => exact .of_bqLoop h2
  | 3 => exact .of_bqLoop h3

end

end Sys2Proof.Machine

namespace Sys2Proof.Claims

open Sys2Proof.Machine

/-- Settles O37: every unit of the engine runs once on a block of `B` samples, and nothing else is touched. -/
theorem rvProcWritesOnlyWhatItLists : Obligations.RvProcWritesOnlyWhatItLists := by
  unfold Obligations.RvProcWritesOnlyWhatItLists
  intro s stage hshape hcanonical hready
  obtain ⟨hl, hr⟩ := rvInput_length hready
  have hexec := exec_rvProc_of_ready hready
  have hblock := hshape.rvBlock stage hl hr
  have hcfg := s.rvBlock_cfg (stage := stage) s.rvInput.1 s.rvInput.2
  have hplace := hshape.rvBlock_placeRan (stage := stage) hl hr
  have hap := hshape.rvBlock_apDone (stage := stage) hl hr
  have hbq := s.rvBlock_bq_history (stage := stage) (l := s.rvInput.1) (r := s.rvInput.2)
  have hrv := State.rvBlock_rv (s := s) stage s.rvInput.1 s.rvInput.2
  have hhost := ((KeepsHost.refl s).rvBlock stage s.rvInput.1 s.rvInput.2).setRvRan true
  obtain ⟨hgp, hrb⟩ := s.rvBlock_gp (stage := stage) s.rvInput.1 s.rvInput.2
  have hgpRan := s.rvBlock_gpRan (stage := stage) s.rvInput.1 s.rvInput.2
  have hfinish := hblock.rvFinish (x := s.rvInput) (by rw [hcfg, hl]) (by rw [hcfg, hr])
  generalize s.rvBlock stage s.rvInput.1 s.rvInput.2 = u at *
  refine ⟨_, hexec, ?engine, fun m => ⟨?delay, (hplace m).phase_val⟩, fun a => ?allpass, fun q => ?filter,
    fun m => (hplace m).memory hcanonical, hrb, hgp, rfl, hgpRan, hfinish, hhost.viol, ?completed⟩
  case engine => exact hrv.of_smoothFreeze
  case delay => exact (hplace m).md_eq
  case allpass =>
    obtain ⟨x, -, hdone⟩ := hap a
    exact hdone.frame
  case filter => exact hbq q
  case completed =>
    have hend := hhost.answer none (outputMix u.blk.rv u.blk.md[0].out u.blk.md[2].out s.rvInput.1)
      (outputMix u.blk.rv u.blk.md[1].out u.blk.md[3].out s.rvInput.2)
    obtain ⟨a, hout, hr0, -, -⟩ := hend.answer
    exact ⟨hend.cfg, hend.queue, hend.args, hend.idx, a, hout, hr0, rfl, rfl⟩

end Sys2Proof.Claims

/-! RV.PROC from its inputs through the tank to its outputs: the input side and the mix (O38), the lanes (O39). -/

namespace Sys2Proof.Machine

open Sys2Proof.Claims

section
variable {s : State} {stage : Fin 12} {l r : List NUM}

/-- RV.PROC that runs ends in the mixed block. -/
theorem eq_rvFinish_of_exec {t : State} (h : EngineReady s stage) (hexec : exec .rvProc s = .next t) :
    t = (s.rvBlock stage s.rvInput.1 s.rvInput.2).rvFinish s.rvInput :=
  Host.Outcome.next.inj (hexec.symm.trans (exec_rvProc_of_ready h))

theorem preStages_getElem {k : Nat} (h : k < preStages.length) : preStages[k] = ⟨k, h.trans (by decide)⟩ := by
  have hval : ∀ k : Fin preStages.length, (preStages[k.val]'k.isLt).val = k.val := by decide
  exact Fin.ext (hval ⟨k, h⟩)

/-- The first pre-diffuser is fed with `RV.s`, every other one with the output of the one before (44_reverb_engine.md R174). -/
theorem State.shape.rvBlock_preStages (h : s.shape) (hl : l.length = s.cfg.blockSize) (hr : r.length = s.cfg.blockSize) :
    AllpassRan s (s.rvBlock stage l r) 0 (s.rvBlock stage l r).blk.rv.mono ∧
      ∀ j : Fin 11, AllpassRan s (s.rvBlock stage l r) ⟨j.val + 1, by omega⟩ (s.rvBlock stage l r).blk.ap[j.val].out := by
  have hseries := s.rvBlock_preStages stage l r
  have hblock := h.rvBlock stage hl hr
  have hcfg := State.rvBlock_cfg (s := s) (stage := stage) l r
  generalize s.rvBlock stage l r = u at *
  refine ⟨hseries.1.allpassRan (by rw [h.apOut, hblock.mono, hcfg]), fun j => ?_⟩
  have hj : j.val + 1 < preStages.length := Nat.succ_lt_succ j.isLt
  have hnext := hseries.succ hj
  simp only [preStages_getElem] at hnext
  exact hnext.allpassRan (by rw [h.apOut, hblock.apOut, hcfg])

theorem laneDiffuser_one (i : Fin 4) : laneDiffuser i 1 = ⟨13 + 2 * i.val, by omega⟩ :=
  Fin.ext (by simp only [laneDiffuser, Fin.val_one]; omega)

/-- What lane `i` of the block is fed with: its input, on lane 0 after `BQ[2]` and `BQ[3]` (44_reverb_engine.md R177). -/
theorem State.laneFed_rvTapped (i : Fin 4) : laneFed (s.rvTapped stage l r) i =
    if i = 0 then (bqLoop s.blk.bq[3] (bqLoop s.blk.bq[2] (laneInput (s.rvTapped stage l r) i)).2).2
    else laneInput (s.rvTapped stage l r) i := by
  obtain ⟨h2, h3⟩ := s.rvTapped_bq_post stage l r
  unfold laneFed
  split
  · next h =>
    subst h
    rw [State.postFilter_out, h2, h3]
  · rfl

/-- The lanes of the block in the words of the claim (44_reverb_engine.md R177). -/
theorem State.shape.rvBlock_lane (h : s.shape) (hl : l.length = s.cfg.blockSize) (hr : r.length = s.cfg.blockSize)
    (i : Fin 4) : let u := s.rvBlock stage l r
      AllpassRan s u ⟨12 + 2 * i.val, by omega⟩ (laneFed (s.rvTapped stage l r) i) ∧
        AllpassRan s u ⟨13 + 2 * i.val, by omega⟩ u.blk.ap[12 + 2 * i.val].out ∧
        DelayRan s u ⟨i.val, by omega⟩ u.blk.ap[13 + 2 * i.val].out := by
  obtain ⟨⟨hfirst, hsecond, -⟩, hdelay⟩ := s.rvBlock_lane stage l r i
  have hfed : (laneFed (s.rvTapped stage l r) i).length = s.cfg.blockSize := by
    rw [(h.rvTapped hl hr).laneFed_length, State.rvTapped_cfg]
  have hblock := h.rvBlock stage hl hr
  have hcfg := State.rvBlock_cfg (s := s) (stage := stage) l r
  have hmid := hsecond.allpassRan (by rw [h.apOut, hblock.apOut, hcfg])
  simp only [laneDiffuser_one] at hmid hdelay
  exact ⟨hfirst.allpassRan (by rw [h.apOut, hfed]), hmid, hdelay.delayRan⟩

/-- The tank input plus the gain times the previous block's output of the lane before (44_reverb_engine.md R176, R177). -/
theorem State.shape.sampleAt_laneInput_rvTapped (h : s.shape) (hl : l.length = s.cfg.blockSize)
    (hr : r.length = s.cfg.blockSize) (i : Fin 4) {n : Nat} (hn : n < s.cfg.blockSize) :
    let u := s.rvBlock stage l r
    sampleAt (laneInput (s.rvTapped stage l r) i) n =
      sampleAt u.blk.rv.tankIn n + u.blk.rv.activeKrt.val * sampleAt s.blk.md[(i.val + 3) % 4].out n := by
  have hprev := s.rvBlock_prev stage l r ⟨(i.val + 3) % 4, by omega⟩
  have hshape := h.rvTapped (stage := stage) hl hr
  have hcfg := s.rvTapped_cfg stage l r
  simp only [Fin.getElem_fin] at hprev
  dsimp only
  rw [State.rvBlock_rv_eq] at hprev ⊢
  generalize s.rvTapped stage l r = v at *
  have hplen := hshape.prev ⟨(i.val + 3) % 4, by omega⟩
  rw [State.sampleAt_laneInput v (by rw [hshape.tankIn, hcfg]; exact hn) (hn.trans_eq (hplen.trans (by rw [hcfg])).symm), hprev]

/-- The outputs of RV.PROC, wholly produced: `B` samples each (44_reverb_engine.md R178). -/
theorem State.shape.rvFinish_answer {u : State} (h : u.shape) {x : List NUM × List NUM}
    (hl : x.1.length = u.cfg.blockSize) (hr : x.2.length = u.cfg.blockSize) :
    ∃ a : Response, (u.rvFinish x).outbox = u.outbox ++ [a] ∧
      a.xout0 = outputMix u.blk.rv u.blk.md[0].out u.blk.md[2].out x.1 ∧
      a.xout1 = outputMix u.blk.rv u.blk.md[1].out u.blk.md[3].out x.2 := by
  have hlen (i j : Fin 24) {y : List NUM} (hy : y.length = u.cfg.blockSize) :
      u.cfg.blockSize ≤ (outputMix u.blk.rv u.blk.md[i].out u.blk.md[j].out y).length := by
    simp only [outputMix, List.length_zipWith, h.mdOut, hy, min_self, le_refl]
  exact ⟨_, rfl, fillBlock_full (hlen 0 2 hl), fillBlock_full (hlen 1 3 hr)⟩

end

end Sys2Proof.Machine

namespace Sys2Proof.Claims

open Sys2Proof.Machine

/-- Settles O38, step by step of section 4. -/
theorem rvProcSmoothsTapsAndMixes : Obligations.RvProcSmoothsTapsAndMixes := by
  unfold Obligations.RvProcSmoothsTapsAndMixes
  intro s t stage hshape hready hexec
  obtain rfl := eq_rvFinish_of_exec hready hexec
  obtain ⟨hl, hr⟩ := rvInput_length hready
  have hblock := hshape.rvBlock stage hl hr
  have hcfg := State.rvBlock_cfg (s := s) (stage := stage) s.rvInput.1 s.rvInput.2
  have hhost := (KeepsHost.refl s).rvBlock stage s.rvInput.1 s.rvInput.2
  have hrv := State.rvBlock_rv (s := s) stage s.rvInput.1 s.rvInput.2
  have hmono := (s.rvBlock_mono stage s.rvInput.1 s.rvInput.2).trans State.preFilter_mono
  have htank := s.rvBlock_tankIn stage s.rvInput.1 s.rvInput.2
  obtain ⟨hlow, hhigh⟩ := s.rvBlock_bq_pre stage s.rvInput.1 s.rvInput.2
  obtain ⟨hfirst, hnext⟩ := hshape.rvBlock_preStages (stage := stage) hl hr
  generalize s.rvBlock stage s.rvInput.1 s.rvInput.2 = u at *
  have hfreeze : u.blk.rv.smoothedFreeze = s.smoothFreeze.blk.rv.smoothedFreeze := by rw [hrv]
  have hgain : u.blk.rv.activeKrt = s.smoothFreeze.blk.rv.activeKrt := by rw [hrv]
  have hwet : u.blk.rv.wet = s.blk.rv.wet := by rw [hrv]; rfl
  have hdry : u.blk.rv.dry = s.blk.rv.dry := by rw [hrv]; rfl
  have hin0 {n : Nat} (hn : n < s.cfg.blockSize) : sampleAt s.rvInput.1 n = sampleAt s.args.xin0 n := sampleAt_take hn
  have hin1 {n : Nat} (hn : n < s.cfg.blockSize) : sampleAt s.rvInput.2 n = sampleAt s.args.xin1 n := sampleAt_take hn
  have hout (m : Nat) (hm : m < 24) : s.cfg.blockSize = u.blk.md[m].out.length :=
    ((hblock.mdOut ⟨m, hm⟩).trans (by rw [hcfg])).symm
  obtain ⟨a, hanswer, ha0, ha1⟩ := hblock.rvFinish_answer (x := s.rvInput) (by rw [hl, hcfg]) (by rw [hr, hcfg])
  refine ⟨?smoother, ?gain, ⟨List.zipWith .add s.rvInput.1 s.rvInput.2, by simp [hl, hr], fun n hn => ?sum, hlow, hhigh,
    hmono⟩, hfirst, hnext, fun n hn => ?tank, a, by rw [hanswer, hhost.outbox], fun n hn => ⟨?left, ?right⟩⟩
  case smoother => exact (congrArg NUM.val hfreeze).trans State.smoothFreeze_val
  case gain =>
    show u.blk.rv.activeKrt.val = u.blk.rv.smoothedFreeze.val + (1 - u.blk.rv.smoothedFreeze.val) * s.blk.rv.krt.val
    rw [hgain, hfreeze, State.smoothFreeze_activeKrt_val]
  case sum => rw [sampleAt_zipWith_add (by rwa [hl]) (by rwa [hr]), hin0 hn, hin1 hn]
  case tank =>
    show sampleAt u.blk.rv.tankIn n = 1 / 2 * sampleAt u.blk.ap[stage.val].out n
    have hlen : u.blk.ap[stage.val].out.length = s.cfg.blockSize := (hblock.apOut ⟨stage, by omega⟩).trans (by rw [hcfg])
    rw [htank, sampleAt_map (by rwa [hlen]), NUM.val_mul, NUM.val_rat, sampleAt]
    norm_num
  case left =>
    rw [ha0, sampleAt_outputMix (hn.trans_eq (hout 0 (by decide))) (hn.trans_eq (hout 2 (by decide))) (by rwa [hl]), hwet,
      hdry, hin0 hn]
    rfl
  case right =>
    rw [ha1, sampleAt_outputMix (hn.trans_eq (hout 1 (by decide))) (hn.trans_eq (hout 3 (by decide))) (by rwa [hr]), hwet,
      hdry, hin1 hn]
    rfl

/-- Settles O39: the lanes of the block, each fed from the snapshots. -/
theorem lanesReadThePreviousBlock : Obligations.LanesReadThePreviousBlock := by
  unfold Obligations.LanesReadThePreviousBlock
  intro s t stage hshape hready hexec i
  obtain rfl := eq_rvFinish_of_exec hready hexec
  obtain ⟨hl, hr⟩ := rvInput_length hready
  have hprev := s.rvBlock_prev stage s.rvInput.1 s.rvInput.2 i
  have hinput : (laneInput (s.rvTapped stage s.rvInput.1 s.rvInput.2) i).length = s.cfg.blockSize := by
    rw [(hshape.rvTapped hl hr).laneInput_length, State.rvTapped_cfg]
  have hfed := State.laneFed_rvTapped (s := s) (stage := stage) (l := s.rvInput.1) (r := s.rvInput.2) i
  have hsample {n : Nat} (hn : n < s.cfg.blockSize) := hshape.sampleAt_laneInput_rvTapped (stage := stage) hl hr i hn
  have hpost := s.rvBlock_bq_post stage s.rvInput.1 s.rvInput.2
  obtain ⟨hfirst, hsecond, hdelay⟩ := hshape.rvBlock_lane (stage := stage) hl hr i
  rw [hfed] at hfirst
  refine ⟨hprev, _, hinput, fun n hn => hsample hn, ?_, hfirst, hsecond, hdelay⟩
  rintro rfl
  exact hpost

end Sys2Proof.Claims

/-! Silence (44_reverb_engine.md R183): a silent state stays silent under every step of RV.PROC on blocks of zeros. -/

namespace Sys2Proof.Machine

open Sys2Proof.Claims

/-- Every sample of the block is 0. -/
def Zeros (x : List NUM) : Prop := ∀ v ∈ x, v.val = 0

theorem Zeros.map {f : NUM → NUM} (hf : ∀ v, v.val = 0 → (f v).val = 0) {x : List NUM} (hx : Zeros x) : Zeros (x.map f) := by
  intro v hv
  obtain ⟨u, hu, rfl⟩ := List.mem_map.1 hv
  exact hf u (hx u hu)

theorem Zeros.zipWith {f : NUM → NUM → NUM} (hf : ∀ u v, u.val = 0 → v.val = 0 → (f u v).val = 0) {x y : List NUM}
    (hx : Zeros x) (hy : Zeros y) : Zeros (List.zipWith f x y) := by
  induction x generalizing y with
  | nil => exact fun v hv => absurd hv List.not_mem_nil
  | cons u x ih =>
    cases y with
    | nil => exact fun v hv => absurd hv List.not_mem_nil
    | cons v y =>
      obtain ⟨hu, hx⟩ := List.forall_mem_cons.1 hx
      obtain ⟨hv, hy⟩ := List.forall_mem_cons.1 hy
      exact List.forall_mem_cons.2 ⟨hf u v hu hv, ih hx hy⟩

theorem Zeros.overwrite {old new : List NUM} (hold : Zeros old) (hnew : Zeros new) : Zeros (overwrite old new) := by
  intro v hv
  obtain hv | hv := List.mem_append.1 hv
  · exact hnew v hv
  · exact hold v (List.mem_of_mem_drop hv)

theorem numbers_eq_replicate {x : List NUM} (hx : Zeros x) : numbers x = List.replicate x.length 0 := by
  rw [numbers, List.eq_replicate_iff, List.length_map]
  refine ⟨rfl, fun b hb => ?_⟩
  obtain ⟨v, hv, rfl⟩ := List.mem_map.1 hb
  exact hx v hv

/-! ## Silent storage and silent filters -/

section
variable {p : Params} {r : Fin 25} {b : RingBuf} {x : List NUM}

/-- Writing 0 into an empty storage leaves it empty, when `Qs` is the identity. -/
theorem rbWrite_silent (hq : p.quant = .identity) {v : NUM} (hv : v.val = 0) (hb : b.data = []) :
    (rbWrite p r b v).data = [] := by
  have hzero : v.isZero = true := (NUM.isZero_iff v).2 hv
  simp [rbWrite, memWrite, hq, quantise, hb, Memory.write, hzero]

theorem rbWrite_foldl_silent (hq : p.quant = .identity) (hx : Zeros x) (hb : b.data = []) :
    (x.foldl (rbWrite p r) b).data = [] := by
  induction x generalizing b with
  | nil => exact hb
  | cons v x ih =>
    obtain ⟨hv, hx⟩ := List.forall_mem_cons.1 hx
    exact ih hx (rbWrite_silent hq hv hb)

theorem rbRead_silent (hb : b.data = []) (pos : NUM) : (rbRead p r b pos).val = 0 := by
  simp [val_rbRead, memRead, hb, Memory.read]

theorem apLoop_silent {m : ModDelay} {g : NUM} (hq : p.quant = .identity) (hx : Zeros x) (hb : b.data = []) :
    (apLoop p r m g b x).buf.data = [] ∧ Zeros (apLoop p r m g b x).out := by
  induction x generalizing b with
  | nil => exact ⟨hb, fun v hv => absurd hv List.not_mem_nil⟩
  | cons v x ih =>
    obtain ⟨hv, hx⟩ := List.forall_mem_cons.1 hx
    have hread := rbRead_silent (p := p) (r := r) hb (m.tap b.wc)
    have hfed : (v.add (g.mul (rbRead p r b (m.tap b.wc)))).val = 0 := by simp [hv, hread]
    obtain ⟨hdata, hout⟩ := ih hx (rbWrite_silent (r := r) hq hfed hb)
    refine ⟨hdata, List.forall_mem_cons.2 ⟨?_, hout⟩⟩
    rw [val_apOutput, hread]
    split
    · rw [hfed]; ring
    · rw [hv]; ring

/-- A filter whose history is 0 (43_biquad.md section 2). -/
def Biquad.silent (f : Biquad) : Prop := f.x1.val = 0 ∧ f.x2.val = 0 ∧ f.y1.val = 0 ∧ f.y2.val = 0

theorem bqLoop_silent {f : Biquad} (hf : f.silent) (hx : Zeros x) : (bqLoop f x).1.silent ∧ Zeros (bqLoop f x).2 := by
  induction x generalizing f with
  | nil => exact ⟨hf, fun v hv => absurd hv List.not_mem_nil⟩
  | cons v x ih =>
    obtain ⟨hv, hx⟩ := List.forall_mem_cons.1 hx
    obtain ⟨hx1, hx2, hy1, hy2⟩ := hf
    have hy : (f.output v).val = 0 := by simp [Biquad.val_output, hv, hx1, hx2, hy1, hy2]
    obtain ⟨hafter, hout⟩ := ih (f := f.shift v (f.output v)) ⟨hv, hx1, hy, hy1⟩ hx
    exact ⟨hafter, List.forall_mem_cons.2 ⟨hy, hout⟩⟩

end

/-! ## The unit operations on a silent state -/

section
variable {s : State} {x : List NUM}

/-- A silent block in a construction whose `Qs` is the identity. -/
structure State.silent (s : State) : Prop where
  quant : s.cfg.quant = .identity
  rb : ∀ r : Fin 25, s.blk.rb[r].data = []
  md : ∀ m : Fin 24, Zeros s.blk.md[m].out
  ap : ∀ a : Fin 20, Zeros s.blk.ap[a].out
  bq : ∀ q : Fin 4, s.blk.bq[q].silent

theorem State.silent.setRv (h : s.silent) (e : Engine) : (s.setRv e).silent := ⟨h.quant, h.rb, h.md, h.ap, h.bq⟩

theorem State.silent.log (h : s.silent) (vs : List Viol) : (s.log vs).silent := ⟨h.quant, h.rb, h.md, h.ap, h.bq⟩

theorem State.silent.setRb (h : s.silent) (r : Fin 25) {b : RingBuf} (hb : b.data = []) : (s.setRb r b).silent where
  quant := h.quant
  md := h.md
  ap := h.ap
  bq := h.bq
  rb k := by
    show ((s.blk.rb.set r b)[k]).data = []
    rw [getElem_fin_set]
    split
    · exact hb
    · exact h.rb k

theorem State.silent.setMd (h : s.silent) (m : Fin 24) {d : ModDelay} (hd : Zeros d.out) : (s.setMd m d).silent where
  quant := h.quant
  rb := h.rb
  ap := h.ap
  bq := h.bq
  md k := by
    show Zeros ((s.blk.md.set m d)[k]).out
    rw [getElem_fin_set]
    split
    · exact hd
    · exact h.md k

theorem State.silent.setAp (h : s.silent) (a : Fin 20) {d : Allpass} (hd : Zeros d.out) : (s.setAp a d).silent where
  quant := h.quant
  rb := h.rb
  md := h.md
  bq := h.bq
  ap k := by
    show Zeros ((s.blk.ap.set a d)[k]).out
    rw [getElem_fin_set]
    split
    · exact hd
    · exact h.ap k

theorem State.silent.setBq (h : s.silent) (q : Fin 4) {f : Biquad} (hf : f.silent) : (s.setBq q f).silent where
  quant := h.quant
  rb := h.rb
  md := h.md
  ap := h.ap
  bq k := by
    show ((s.blk.bq.set q f)[k]).silent
    rw [getElem_fin_set]
    split
    · exact hf
    · exact h.bq k

theorem State.silent.mdProc (h : s.silent) (m : Fin 24) (hx : Zeros x) : (s.mdProc m x).silent := by
  have hdata := rbWrite_foldl_silent (r := rbOfMd m) h.quant hx (h.rb (rbOfMd m))
  refine ((h.setRb (rbOfMd m) hdata).setMd m ?_).log _
  refine (h.md m).overwrite fun v hv => ?_
  obtain ⟨pos, -, rfl⟩ := List.mem_map.1 hv
  exact rbRead_silent hdata pos

theorem State.silent.apProc (h : s.silent) (a : Fin 20) (hx : Zeros x) : (s.apProc a x).silent := by
  obtain ⟨hdata, hout⟩ := apLoop_silent (r := rbOfMd (mdOfAp a)) (m := s.blk.md[mdOfAp a].advance x.length)
    (g := s.blk.ap[a].fb) h.quant hx (h.rb (rbOfMd (mdOfAp a)))
  exact (((h.setRb _ hdata).setMd (mdOfAp a) (by exact h.md (mdOfAp a))).setAp a ((h.ap a).overwrite hout)).log _

theorem State.silent.bqProc (h : s.silent) (q : Fin 4) (hx : Zeros x) : (s.bqProc q x).1.silent ∧ Zeros (s.bqProc q x).2 := by
  obtain ⟨hafter, hout⟩ := bqLoop_silent (h.bq q) hx
  exact ⟨(h.log _).setBq q hafter, hout⟩

/-! ## The steps of RV.PROC on a silent state -/

theorem State.silent.chain (h : s.silent) (as : List (Fin 20)) (hx : Zeros x) : (s.chain as x).silent := by
  induction as generalizing s x with
  | nil => exact h
  | cons a rest ih =>
    have hstage := h.apProc a hx
    exact ih hstage (hstage.ap a)

theorem State.silent.preFilter {l r : List NUM} (h : s.silent) (hl : Zeros l) (hr : Zeros r) :
    (s.preFilter l r).silent ∧ Zeros (s.preFilter l r).blk.rv.mono := by
  have hsum : Zeros (List.zipWith .add l r) := hl.zipWith (fun u v hu hv => by simp [hu, hv]) hr
  obtain ⟨hlow, hlowOut⟩ := h.bqProc 0 hsum
  obtain ⟨hhigh, hhighOut⟩ := hlow.bqProc 1 hlowOut
  exact ⟨hhigh.setRv _, hhighOut⟩

/-- The inputs of the lanes are 0: the tank input and the snapshots are output buffers. -/
theorem State.silent.laneInput_tapped (h : s.silent) (stage : Fin 12) (i : Fin 4) :
    Zeros (laneInput (s.tapTank stage).snapshot i) := by
  have htank : Zeros (s.tapTank stage).snapshot.blk.rv.tankIn := by
    rw [State.tapTank_snapshot_tankIn]
    exact (h.ap ⟨stage, by omega⟩).map fun v hv => by simp [hv]
  have hprev := s.tapTank_snapshot_prev stage ⟨(i.val + 3) % 4, by omega⟩
  simp only [Fin.getElem_fin] at hprev
  unfold laneInput
  rw [hprev]
  exact htank.zipWith (fun u v hu hv => by simp [hu, hv]) (h.md ⟨(i.val + 3) % 4, by omega⟩)

theorem State.silent.lane (h : s.silent) {i : Fin 4} (hx : Zeros (laneInput s i)) : (s.lane i).silent := by
  have hfed : (s.laneFiltered i).silent ∧ Zeros (laneFed s i) := by
    unfold State.laneFiltered laneFed
    split
    · next h0 =>
      subst h0
      obtain ⟨hlow, hlowOut⟩ := h.bqProc 2 hx
      exact hlow.bqProc 3 hlowOut
    · exact ⟨h, hx⟩
  rw [State.lane_eq]
  have hchain := hfed.1.chain [laneDiffuser i 0, laneDiffuser i 1] hfed.2
  exact hchain.mdProc (laneDelay i) (hchain.ap (laneDiffuser i 1))

theorem State.silent.lanes (h : s.silent) (hx : ∀ i, Zeros (laneInput s i)) (is : List (Fin 4)) :
    (is.foldl State.lane s).silent := by
  induction is generalizing s with
  | nil => exact h
  | cons j rest ih => exact ih (h.lane (hx j)) fun i => by rw [laneInput_lane]; exact hx i

theorem State.silent.rvBlock (h : s.silent) (stage : Fin 12) {l r : List NUM} (hl : Zeros l) (hr : Zeros r) :
    (s.rvBlock stage l r).silent := by
  obtain ⟨hpre, hmono⟩ := (h.setRv s.smoothFreeze.blk.rv).preFilter hl hr
  have hdiffused : (s.rvDiffused l r).silent := hpre.chain preStages hmono
  rw [State.rvBlock_eq_foldl, State.rvTapped]
  generalize s.rvDiffused l r = v at hdiffused
  exact State.silent.lanes ((hdiffused.setRv _).setRv _) (hdiffused.laneInput_tapped stage) _

theorem outputMix_zeros {e : Engine} {a b x : List NUM} (ha : Zeros a) (hb : Zeros b) (hx : Zeros x) :
    Zeros (outputMix e a b x) :=
  (ha.zipWith (f := .add) (fun u v hu hv => by simp [hu, hv]) hb).zipWith (fun u v hu hv => by simp [hu, hv]) hx

end

end Sys2Proof.Machine

namespace Sys2Proof.Claims

open Sys2Proof.Machine

/-- Settles O42: every step of RV.PROC keeps silence, and the mix of silent lanes and silent inputs is 0. -/
theorem silenceInSilenceOut : Obligations.SilenceInSilenceOut := by
  unfold Obligations.SilenceInSilenceOut
  intro s stage hshape hquant hready ⟨hrb, hmd, hap, hbq⟩ hin0 hin1
  obtain ⟨hl, hr⟩ := rvInput_length hready
  have hexec := exec_rvProc_of_ready hready
  have hzl : Zeros s.rvInput.1 := fun v hv => hin0 v (List.mem_of_mem_take hv)
  have hzr : Zeros s.rvInput.2 := fun v hv => hin1 v (List.mem_of_mem_take hv)
  have hsilent : s.silent := ⟨hquant, hrb, hmd, hap, hbq⟩
  have hafter := hsilent.rvBlock stage hzl hzr
  have hblock := hshape.rvBlock stage hl hr
  have hcfg := State.rvBlock_cfg (s := s) (stage := stage) s.rvInput.1 s.rvInput.2
  have hhost := ((KeepsHost.refl s).rvBlock stage s.rvInput.1 s.rvInput.2).setRvRan true
  generalize s.rvBlock stage s.rvInput.1 s.rvInput.2 = u at *
  have hmix (i j : Fin 24) {x : List NUM} (hx : Zeros x) (hlen : x.length = s.cfg.blockSize) :
      numbers (outputMix u.blk.rv u.blk.md[i].out u.blk.md[j].out x) = List.replicate s.cfg.blockSize 0 := by
    rw [numbers_eq_replicate (outputMix_zeros (hafter.md i) (hafter.md j) hx)]
    simp only [outputMix, List.length_zipWith, hblock.mdOut, hcfg, hlen, min_self]
  exact ⟨_, _, _, hexec, ⟨hafter.rb, hafter.md, hafter.ap, hafter.bq⟩, hhost.answer _ _ _, hmix 0 2 hzl hl, hmix 1 3 hzr hr⟩

end Sys2Proof.Claims

/-! Which operation writes which field of the block (10_state.md sections 2 and 3): for each kind of unit, what one operation may
change, proved over the ways an operation can end. -/

namespace Sys2Proof.Machine

open Sys2Proof.Claims

/-- A reflexive relation between the elements before and after holds after one element is replaced, if it holds of that one. -/
theorem rel_getElem_fin_set {α : Type} {n : Nat} {R : Fin n → α → α → Prop} (hrefl : ∀ j a, R j a a) {v : Vector α n}
    {k : Fin n} {a : α} (h : R k v[k] a) (j : Fin n) : R j v[j] (v.set k a)[j] := by
  rw [getElem_fin_set]
  split
  · next hj => subst hj; exact h
  · exact hrefl j _

section
variable {i : Instr} {s t : State}

/-! ## Ring buffers -/

/-- An operation other than those the table names for ring buffer `r` leaves it alone. -/
def BufferWrites (i : Instr) (r : Fin 25) (b b' : RingBuf) : Prop :=
  b' ≠ b → i = .rbWrite r ∨ (∃ m : Fin 24, rbOfMd m = r ∧ runsDelay i m) ∨ i = .gpProc ∧ r = 24

theorem BufferWrites.refl (i : Instr) (r : Fin 25) (b : RingBuf) : BufferWrites i r b b := absurd rfl

theorem BufferWrites.of_eq (h : t.blk.rb = s.blk.rb) (r : Fin 25) : BufferWrites i r s.blk.rb[r] t.blk.rb[r] := by
  rw [h]; exact .refl i r _

theorem BufferWrites.of_runs {m : Fin 24} (h : runsDelay i m) (b b' : RingBuf) : BufferWrites i (rbOfMd m) b b' :=
  fun _ => .inr (.inl ⟨m, rfl, h⟩)

theorem runsDelay_mdProc (m : Fin 24) : runsDelay (.mdProc m) m := .inl rfl

theorem runsDelay_apProc (a : Fin 20) : runsDelay (.apProc a) (mdOfAp a) := .inr (.inl ⟨a, rfl, rfl⟩)

theorem runsDelay_rvProc (m : Fin 24) : runsDelay .rvProc m := .inr (.inr rfl)

theorem State.rvBlock_bufferWrites (stage : Fin 12) (l r : List NUM) (k : Fin 25) :
    BufferWrites .rvProc k s.blk.rb[k] (s.rvBlock stage l r).blk.rb[k] := by
  have hbuffer : ∀ k : Fin 25, k = 24 ∨ ∃ m, k = rbOfMd m := by decide
  obtain rfl | ⟨m, rfl⟩ := hbuffer k
  · rw [(s.rvBlock_gp l r (stage := stage)).2]
    exact .refl _ _ _
  · exact .of_runs (runsDelay_rvProc m) _ _

theorem Executed.bufferWrites (h : Executed s i t) (r : Fin 25) : BufferWrites i r s.blk.rb[r] t.blk.rb[r] := by
  cases h with
  | rbWrite k =>
    rw [State.done_blk, State.setRb_rb, State.bufferOwned_blk]
    exact rel_getElem_fin_set (BufferWrites.refl _) (fun _ => .inl rfl) r
  | mdProc m x =>
    rw [State.done_blk, State.mdProc_rb, State.engineOwned_blk]
    exact rel_getElem_fin_set (BufferWrites.refl _) (.of_runs (runsDelay_mdProc m) _ _) r
  | apProc a x =>
    rw [State.done_blk, State.apProc_rb, State.engineOwned_blk]
    exact rel_getElem_fin_set (BufferWrites.refl _) (.of_runs (runsDelay_apProc a) _ _) r
  | gpProc x =>
    rw [State.answer_blk, State.gpProc_rb]
    exact rel_getElem_fin_set (R := BufferWrites .gpProc) (k := 24) (BufferWrites.refl _) (fun _ => .inr (.inr ⟨rfl, rfl⟩)) r
  | rvProc stage x => exact State.rvBlock_bufferWrites stage x.1 x.2 r
  | _ => exact .of_eq (by simp [State.mdSetParams]) r

/-! ## Delays -/

/-- What an operation may change of delay `m`. -/
def DelayWrites (i : Instr) (m : Fin 24) (d d' : ModDelay) : Prop :=
  (d'.delaySamples ≠ d.delaySamples → setsDelay i m) ∧ (d'.modRate ≠ d.modRate → setsDelay i m) ∧
    (d'.modAmount ≠ d.modAmount → setsDelay i m) ∧ (d'.interp ≠ d.interp → setsDelay i m) ∧
    (d'.phase ≠ d.phase → runsDelay i m) ∧ (d'.out ≠ d.out → i = .mdProc m ∨ i = .rvProc ∧ m.val < 4)

theorem DelayWrites.refl (i : Instr) (m : Fin 24) (d : ModDelay) : DelayWrites i m d d :=
  ⟨absurd rfl, absurd rfl, absurd rfl, absurd rfl, absurd rfl, absurd rfl⟩

theorem DelayWrites.of_eq (h : t.blk.md = s.blk.md) (m : Fin 24) : DelayWrites i m s.blk.md[m] t.blk.md[m] := by
  rw [h]; exact .refl i m _

theorem DelayWrites.setParams {m : Fin 24} (h : setsDelay i m) (d : ModDelay) (len : Int) (rate amount : NUM) (interp : Bool) :
    DelayWrites i m d (d.setParams len rate amount interp) :=
  ⟨fun _ => h, fun _ => h, fun _ => h, fun _ => h, absurd rfl, absurd rfl⟩

theorem DelayWrites.advance {m : Fin 24} (h : runsDelay i m) (d : ModDelay) (l : Nat) : DelayWrites i m d (d.advance l) :=
  ⟨absurd rfl, absurd rfl, absurd rfl, absurd rfl, fun _ => h, absurd rfl⟩

theorem DelayWrites.advance_out {m : Fin 24} (h : runsDelay i m) (hout : i = .mdProc m ∨ i = .rvProc ∧ m.val < 4)
    (d : ModDelay) (l : Nat) (out : List NUM) : DelayWrites i m d { d.advance l with out := out } :=
  ⟨absurd rfl, absurd rfl, absurd rfl, absurd rfl, fun _ => h, fun _ => hout⟩

theorem State.updateAll_delayWrites (h : updates i) (m : Fin 24) : DelayWrites i m s.blk.md[m] s.updateAll.blk.md[m] := by
  rw [State.updateAll_md_get]
  exact .setParams (.inr (.inr h)) _ _ _ _ _

/-- Every member of a series has run, on some block. -/
theorem InSeries.exists_apDone {as : List (Fin 20)} {x : List NUM} (h : InSeries s t as x) {a : Fin 20} (ha : a ∈ as) :
    ∃ c, ApDone s t a c := by
  induction as generalizing x with
  | nil => cases ha
  | cons b rest ih =>
    obtain ⟨hhead, htail⟩ := h
    obtain rfl | ha := List.mem_cons.1 ha
    · exact ⟨x, hhead⟩
    · exact ih htail ha

theorem State.rvBlock_exists_apDone (stage : Fin 12) (l r : List NUM) (a : Fin 20) :
    ∃ c, ApDone s (s.rvBlock stage l r) a c := by
  obtain ha | ⟨i, ha⟩ := mem_preStages_or_lane a
  · exact (s.rvBlock_preStages stage l r).exists_apDone ha
  · exact (s.rvBlock_lane stage l r i).1.exists_apDone ha

theorem State.rvBlock_delayWrites (stage : Fin 12) (l r : List NUM) (m : Fin 24) :
    DelayWrites .rvProc m s.blk.md[m] (s.rvBlock stage l r).blk.md[m] := by
  obtain ⟨a, rfl⟩ | ⟨i, rfl⟩ := eq_mdOfAp_or_laneDelay m
  · obtain ⟨c, hdone⟩ := State.rvBlock_exists_apDone (s := s) stage l r a
    rw [hdone.md, State.apProc_md_same]
    exact .advance (runsDelay_rvProc _) _ _
  · rw [(s.rvBlock_lane stage l r i).2.md, State.mdProc_md_same]
    exact .advance_out (runsDelay_rvProc _) (.inr ⟨rfl, i.isLt⟩) _ _ _

theorem updates_updateall : updates .rvUpdateall := .inl rfl

theorem updates_setparam (id : ParamId) : updates (Packet.setparamInstr id) := .inr ⟨id, rfl⟩

theorem Executed.delayWrites (h : Executed s i t) (m : Fin 24) : DelayWrites i m s.blk.md[m] t.blk.md[m] := by
  cases h with
  | mdSetp k len =>
    rw [State.done_blk, State.mdSetParams, State.setMd_md, State.engineOwned_blk]
    exact rel_getElem_fin_set (DelayWrites.refl _) (.setParams (.inl rfl) _ _ _ _ _) m
  | apSetp a len =>
    rw [State.done_blk, State.mdSetParams, State.setMd_md, State.engineOwned_blk]
    exact rel_getElem_fin_set (DelayWrites.refl _) (.setParams (.inr (.inl ⟨a, rfl, rfl⟩)) _ _ _ _ _) m
  | mdProc k x =>
    rw [State.done_blk, State.mdProc_md, State.engineOwned_blk]
    exact rel_getElem_fin_set (DelayWrites.refl _) (.advance_out (runsDelay_mdProc k) (.inl rfl) _ _ _) m
  | apProc a x =>
    rw [State.done_blk, State.apProc_md, State.engineOwned_blk]
    exact rel_getElem_fin_set (DelayWrites.refl _) (.advance (runsDelay_apProc a) _ _) m
  | rvSetparam id =>
    rw [State.done_blk]
    exact State.updateAll_delayWrites (s := s.setParam id s.args.a0) (updates_setparam id) m
  | rvUpdateall => rw [State.done_blk]; exact State.updateAll_delayWrites updates_updateall m
  | rvProc stage x => exact State.rvBlock_delayWrites stage x.1 x.2 m
  | _ => exact .of_eq (by simp) m

/-! ## Allpasses -/

/-- What an operation may change of allpass `a`. -/
def AllpassWrites (i : Instr) (a : Fin 20) (d d' : Allpass) : Prop :=
  (d'.fb ≠ d.fb → i = .apSetfb a ∨ updates i) ∧ (d'.out ≠ d.out → i = .apProc a ∨ i = .rvProc)

theorem AllpassWrites.refl (i : Instr) (a : Fin 20) (d : Allpass) : AllpassWrites i a d d := ⟨absurd rfl, absurd rfl⟩

theorem AllpassWrites.of_eq (h : t.blk.ap = s.blk.ap) (a : Fin 20) : AllpassWrites i a s.blk.ap[a] t.blk.ap[a] := by
  rw [h]; exact .refl i a _

theorem State.updateAll_allpassWrites (h : updates i) (a : Fin 20) :
    AllpassWrites i a s.blk.ap[a] s.updateAll.blk.ap[a] := by
  rw [Fin.getElem_fin, Fin.getElem_fin, State.updateAll_ap]
  exact ⟨fun _ => .inr h, absurd rfl⟩

theorem Executed.allpassWrites (h : Executed s i t) (a : Fin 20) : AllpassWrites i a s.blk.ap[a] t.blk.ap[a] := by
  cases h with
  | apSetfb k =>
    rw [State.done_blk, State.log_blk, State.setAp_ap, State.engineOwned_blk]
    refine rel_getElem_fin_set (AllpassWrites.refl _) ?_ a
    exact ⟨fun _ => .inl rfl, absurd rfl⟩
  | apProc k x =>
    rw [State.done_blk, State.apProc_ap, State.engineOwned_blk]
    refine rel_getElem_fin_set (AllpassWrites.refl _) ?_ a
    exact ⟨absurd rfl, fun _ => .inl rfl⟩
  | rvSetparam id =>
    rw [State.done_blk]
    exact State.updateAll_allpassWrites (s := s.setParam id s.args.a0) (updates_setparam id) a
  | rvUpdateall => rw [State.done_blk]; exact State.updateAll_allpassWrites updates_updateall a
  | rvProc stage x =>
    obtain ⟨c, hdone⟩ := State.rvBlock_exists_apDone (s := s) stage x.1 x.2 a
    refine ⟨fun h => absurd ?_ h, fun _ => .inr rfl⟩
    exact (congrArg Allpass.fb (hdone.ap a rfl)).trans (by rw [State.apProc_ap_same])
  | _ => exact .of_eq (by simp [State.mdSetParams]) a

/-! ## Filters -/

/-- What an operation may change of filter `q`. -/
def FilterWrites (i : Instr) (q : Fin 4) (f f' : Biquad) : Prop :=
  (f'.type ≠ f.type → ∃ ty, i = .bqSettype q ty) ∧ (f'.freq ≠ f.freq → i = .bqSetfreq q ∨ updates i) ∧
    (f'.fs ≠ f.fs → i = .bqSetfs q) ∧ (f'.coeffs ≠ f.coeffs → i = .bqUpdate q ∨ updates i) ∧
    (f'.x1 ≠ f.x1 → i = .bqProc q ∨ i = .rvProc) ∧ (f'.x2 ≠ f.x2 → i = .bqProc q ∨ i = .rvProc) ∧
    (f'.y1 ≠ f.y1 → i = .bqProc q ∨ i = .rvProc) ∧ (f'.y2 ≠ f.y2 → i = .bqProc q ∨ i = .rvProc)

theorem FilterWrites.refl (i : Instr) (q : Fin 4) (f : Biquad) : FilterWrites i q f f :=
  ⟨absurd rfl, absurd rfl, absurd rfl, absurd rfl, absurd rfl, absurd rfl, absurd rfl, absurd rfl⟩

theorem FilterWrites.of_eq (h : t.blk.bq = s.blk.bq) (q : Fin 4) : FilterWrites i q s.blk.bq[q] t.blk.bq[q] := by
  rw [h]; exact .refl i q _

theorem FilterWrites.of_history {q : Fin 4} (hi : i = .bqProc q ∨ i = .rvProc) {f f' : Biquad} (h : HistoryOnly f f') :
    FilterWrites i q f f' := by
  rw [HistoryOnly] at h
  rw [h]
  exact ⟨absurd rfl, absurd rfl, absurd rfl, absurd rfl, fun _ => hi, fun _ => hi, fun _ => hi, fun _ => hi⟩

theorem State.updateAll_filterWrites (h : updates i) (q : Fin 4) : FilterWrites i q s.blk.bq[q] s.updateAll.blk.bq[q] := by
  rw [Fin.getElem_fin, Fin.getElem_fin, State.updateAll_bq]
  exact ⟨absurd rfl, fun _ => .inr h, absurd rfl, fun _ => .inr h, absurd rfl, absurd rfl, absurd rfl, absurd rfl⟩

theorem Executed.filterWrites (h : Executed s i t) (q : Fin 4) : FilterWrites i q s.blk.bq[q] t.blk.bq[q] := by
  cases h with
  | bqSettype k ty =>
    rw [State.done_blk, State.setBq_bq, State.engineOwned_blk]
    refine rel_getElem_fin_set (FilterWrites.refl _) ?_ q
    exact ⟨fun _ => ⟨ty, rfl⟩, absurd rfl, absurd rfl, absurd rfl, absurd rfl, absurd rfl, absurd rfl, absurd rfl⟩
  | bqSetfreq k =>
    rw [State.done_blk, State.setBq_bq, State.engineOwned_blk]
    refine rel_getElem_fin_set (FilterWrites.refl _) ?_ q
    exact ⟨absurd rfl, fun _ => .inl rfl, absurd rfl, absurd rfl, absurd rfl, absurd rfl, absurd rfl, absurd rfl⟩
  | bqSetfs k =>
    rw [State.done_blk, State.setBq_bq, State.engineOwned_blk]
    refine rel_getElem_fin_set (FilterWrites.refl _) ?_ q
    exact ⟨absurd rfl, absurd rfl, fun _ => rfl, absurd rfl, absurd rfl, absurd rfl, absurd rfl, absurd rfl⟩
  | bqUpdate k =>
    rw [State.done_blk, State.setBq_bq, State.engineOwned_blk]
    refine rel_getElem_fin_set (FilterWrites.refl _) ?_ q
    exact ⟨absurd rfl, absurd rfl, absurd rfl, fun _ => .inl rfl, absurd rfl, absurd rfl, absurd rfl, absurd rfl⟩
  | bqProc k x =>
    rw [State.answer_blk, State.bqProc_bq, State.engineOwned_blk]
    exact rel_getElem_fin_set (FilterWrites.refl _) (.of_history (.inl rfl) (.of_bqLoop rfl)) q
  | rvSetparam id =>
    rw [State.done_blk]
    exact State.updateAll_filterWrites (s := s.setParam id s.args.a0) (updates_setparam id) q
  | rvUpdateall => rw [State.done_blk]; exact State.updateAll_filterWrites updates_updateall q
  | rvProc stage x =>
    exact .of_history (.inr rfl) (State.rvBlock_bq_history (s := s) (stage := stage) (l := x.1) (r := x.2) q)
  | _ => exact .of_eq (by simp [State.mdSetParams]) q

/-! ## The pitch shifter -/

/-- What an operation may change of the pitch shifter. -/
def ShifterWrites (i : Instr) (g g' : Shifter) : Prop :=
  (g'.speed ≠ g.speed → i = .gpSetspeed) ∧ (g'.grains ≠ g.grains → i = .gpProc) ∧
    (g'.rng ≠ g.rng → i = .gpSeed ∨ i = .gpProc)

theorem ShifterWrites.of_eq {g g' : Shifter} (h : g' = g) : ShifterWrites i g g' := by
  rw [h]; exact ⟨absurd rfl, absurd rfl, absurd rfl⟩

theorem Executed.shifterWrites (h : Executed s i t) : ShifterWrites i s.blk.gp t.blk.gp := by
  cases h with
  | gpSetspeed => exact ⟨fun _ => rfl, absurd rfl, absurd rfl⟩
  | gpSeed k => exact ⟨absurd rfl, absurd rfl, fun _ => .inl rfl⟩
  | gpProc x => exact ⟨absurd rfl, fun _ => rfl, fun _ => .inr rfl⟩
  | rvProc stage x => exact .of_eq (s.rvBlock_gp x.1 x.2 (stage := stage)).1
  | _ => exact .of_eq (by simp [State.mdSetParams])

/-! ## The engine's registers -/

/-- What an operation may change of the engine's registers and buffers. -/
def EngineWrites (i : Instr) (e e' : Engine) : Prop :=
  (∀ k : ParamId, e'.p[k.idx] ≠ e.p[k.idx] → i = Packet.setparamInstr k) ∧ (e'.krt ≠ e.krt → updates i) ∧
    (e'.tankFb ≠ e.tankFb → updates i) ∧ (e'.wet ≠ e.wet → updates i) ∧ (e'.dry ≠ e.dry → updates i) ∧
    (e'.smoothedFreeze ≠ e.smoothedFreeze → i = .rvProc) ∧ (e'.activeKrt ≠ e.activeKrt → i = .rvProc) ∧
    (e'.prev ≠ e.prev → i = .rvProc) ∧ (e'.mono ≠ e.mono → i = .rvProc) ∧ (e'.tankIn ≠ e.tankIn → i = .rvProc)

theorem EngineWrites.of_eq {e e' : Engine} (h : e' = e) : EngineWrites i e e' := by
  rw [h]
  exact ⟨fun _ => absurd rfl, absurd rfl, absurd rfl, absurd rfl, absurd rfl, absurd rfl, absurd rfl, absurd rfl, absurd rfl,
    absurd rfl⟩

/-- UpdateAll writes the derived registers and no parameter. -/
theorem EngineWrites.updated (h : updates i) {e : Engine} {u : State} (hu : u.blk.rv = { e with p := u.blk.rv.p })
    (hp : ∀ k : ParamId, u.blk.rv.p[k.idx] ≠ e.p[k.idx] → i = Packet.setparamInstr k) :
    EngineWrites i e (updatedEngine u) := by
  refine ⟨hp, fun _ => h, fun _ => h, fun _ => h, fun _ => h, ?_⟩
  unfold updatedEngine
  rw [hu]
  exact ⟨absurd rfl, absurd rfl, absurd rfl, absurd rfl, absurd rfl⟩

theorem EngineWrites.ran {e e' : Engine} (h : e' = { e with
    smoothedFreeze := e'.smoothedFreeze, activeKrt := e'.activeKrt, prev := e'.prev, mono := e'.mono, tankIn := e'.tankIn }) :
    EngineWrites .rvProc e e' := by
  rw [h]
  exact ⟨fun _ => absurd rfl, absurd rfl, absurd rfl, absurd rfl, absurd rfl, fun _ => rfl, fun _ => rfl, fun _ => rfl,
    fun _ => rfl, fun _ => rfl⟩

theorem Executed.engineWrites (h : Executed s i t) : EngineWrites i s.blk.rv t.blk.rv := by
  cases h with
  | rvSetparam id =>
    rw [State.done_blk, State.updateAll_rv]
    refine .updated (updates_setparam id) rfl fun k hk => ?_
    by_cases hid : k = id
    · rw [hid]
    · exact absurd (s.setParam_param_ne s.args.a0 hid) hk
  | rvUpdateall =>
    rw [State.done_blk, State.updateAll_rv]
    exact .updated updates_updateall rfl fun _ => absurd rfl
  | rvProc stage x => exact .ran (State.rvBlock_rv (s := s) stage x.1 x.2).of_smoothFreeze
  | _ => exact .of_eq (by simp [State.mdSetParams])

end

end Sys2Proof.Machine

namespace Sys2Proof.Claims

open Sys2Proof.Machine

/-- Settles O50: one frame for each kind of unit. -/
theorem registersAreWrittenOnlyByTheirOperations : Obligations.RegistersAreWrittenOnlyByTheirOperations := by
  unfold Obligations.RegistersAreWrittenOnlyByTheirOperations
  intro i s t hexec
  have h := executed_of_exec hexec
  obtain ⟨hspeed, hgrains, hrng⟩ := h.shifterWrites
  exact ⟨h.bufferWrites, h.delayWrites, h.allpassWrites, h.filterWrites, hspeed, hgrains, hrng, h.engineWrites⟩

end Sys2Proof.Claims
